-- ==== Sys2Proof/Word.lean ====
section
/-! DEFINITION. The machine's words and register numbers (spec/00_scope.md R4, R6): every value is an unsigned
integer of a fixed width, bit 0 the least significant. -/

namespace Sys2Proof

/-- A general register, a timer, a memory byte or an 8-bit immediate (R4: `REG_BITS`, `TIMER_BITS`). -/
abbrev Byte := BitVec 8

/-- An instruction word, `pc`, `I`, a stack entry or an error register (R4: `INSN_BITS`, `STACK_ENTRY_BITS`). -/
abbrev Word := BitVec 16

/-- The number of a general register: `0` is V0, `15` is VF (spec/10_state.md R11). -/
abbrev RegNum := Fin 16

/-- The number of a key, 0x0 to 0xF (spec/10_state.md R27). -/
abbrev KeyNum := Fin 16

end Sys2Proof
end

