-- ==== Sys2Proof/Config.lean ====
section
/-! DEFINITION. The parameters of spec/00_scope.md: the constants of R4, the type of the open parameters of R5, and the one
free value of the model, the random byte of R31. The default values of the open parameters stand in
Machine/Defaults.lean. -/

namespace Sys2Proof.Config

/-- `MEM_SIZE` (R4): addresses are reduced modulo this. -/
abbrev memSize : Nat := 0x1000

/-- `ROM_BASE` (R4): the address of the first ROM byte and the entry point. -/
abbrev romBase : Nat := 0x200

/-- `ROM_MAX` (R4): the largest ROM a reset accepts, in bytes. -/
abbrev romMax : Nat := 0xE00

/-- `FB_W` (R4): framebuffer columns. -/
abbrev fbWidth : Nat := 64

/-- `FB_H` (R4): framebuffer rows. -/
abbrev fbHeight : Nat := 32

/-- `FONT_BYTES` (R4): 16 glyphs of 5 bytes. -/
abbrev fontBytes : Nat := 80

/-- `SPRITE_EDGE` (R5): what becomes of a sprite pixel past the right or bottom edge
(spec/43_display.md R137). -/
inductive SpriteEdge where
  | wrap
  | clip
  deriving DecidableEq, Repr

/-- `SHR_FILL` (R5): the bit that SHR shifts in (spec/41_alu.md R110). -/
inductive ShrFill where
  | zero
  | sign
  deriving DecidableEq, Repr

/-- The open parameters of R5. `fontBase` is bounded so that `FONT_BASE + 80 <= 0x200`. -/
structure Params where
  fontBase   : Fin 433
  fontTable  : Vector Byte 80
  spriteEdge : SpriteEdge
  shrFill    : ShrFill
  deriving DecidableEq, Repr

/-- The byte the random source presents at the `n`-th RND once the list `State.random` is used up
(spec/10_state.md R31, spec/41_alu.md R112, decision D27): a free value, any byte. DESIGN CHOICE (log 3), safe: nothing
constrains it. -/
opaque randomByte : Nat → Byte

end Sys2Proof.Config
end

