-- ==== Sys2Proof/Machine/Defaults.lean ====
section
/-! DEFINITION. The default values of the open parameters (spec/00_scope.md R5, spec/10_state.md R23, R24; decisions D2, D3,
D9, D12). Defaults only: State carries the parameters, so a statement about every state holds for every value of them. -/

namespace Sys2Proof.Machine

open Sys2Proof.Config

/-- The default `FONT_TABLE` of R24, glyph 0 first, five bytes a glyph, top row first. -/
def defaultFontTable : Vector Byte 80 :=
  (#v[0xF0, 0x90, 0x90, 0x90, 0xF0, 0x20, 0x60, 0x20, 0x20, 0x70, 0xF0, 0x10, 0xF0, 0x80, 0xF0, 0xF0, 0x10, 0xF0, 0x10, 0xF0] : Vector Byte 20) ++
  (#v[0x90, 0x90, 0xF0, 0x10, 0x10, 0xF0, 0x80, 0xF0, 0x10, 0xF0, 0xF0, 0x80, 0xF0, 0x90, 0xF0, 0xF0, 0x10, 0x20, 0x40, 0x40] : Vector Byte 20) ++
  (#v[0xF0, 0x90, 0xF0, 0x90, 0xF0, 0xF0, 0x90, 0xF0, 0x10, 0xF0, 0xF0, 0x90, 0xF0, 0x90, 0x90, 0xE0, 0x90, 0xE0, 0x90, 0xE0] : Vector Byte 20) ++
  (#v[0xF0, 0x80, 0x80, 0x80, 0xF0, 0xE0, 0x90, 0x90, 0x90, 0xE0, 0xF0, 0x80, 0xF0, 0x80, 0xF0, 0xF0, 0x80, 0xF0, 0x80, 0x80] : Vector Byte 20)

/-- The defaults of R5. DESIGN CHOICE (log 4): the spec's own defaults, taken at reset. -/
def defaultParams : Params where
  fontBase := 0x050
  fontTable := defaultFontTable
  spriteEdge := .wrap
  shrFill := .zero

end Sys2Proof.Machine
end

