-- ==== Sys2Proof/Machine/State.lean ====
section
/-! DEFINITION. The state of CORE (spec/10_state.md R10) as plain data, with the inputs and parameters a step needs held
beside it, the state after reset (R33), and the reasons a step can stop. -/

namespace Sys2Proof.Machine

open Sys2Proof.Config

/-- `MODE` (R29). -/
inductive Mode where
  | running
  | awaitingKey (target : RegNum)
  | halted
  deriving DecidableEq, Repr

/-- `ERR_KIND` (R30, spec/60_exceptions.md R192): codes 0 to 4, in this order. -/
inductive ErrorKind where
  | none
  | unknownOpcode
  | stackOverflow
  | stackUnderflow
  | romTooLarge
  deriving DecidableEq, Repr

/-- A move of the host (spec/50_cycle.md R166, R177): the three events of CORE, and the input adapter setting the levels of
the 16 key inputs between events. -/
inductive HostMove where
  | instructionTick
  | timerTick
  | setKeys (levels : BitVec 16)
  | reset (rom : List Byte)
  deriving DecidableEq, Repr

/-- `MEM` (R21): the bytes that differ from the contents after a reset with an empty ROM, by rising address. -/
abbrev Memory := List Host.Cell

/-- `FB` (R25): 32 rows of 64 pixels; the pixel in column `x` is bit `x` of its row. DESIGN CHOICE (log 11), safe: how a grid
of bits is laid out. -/
abbrev Frame := Vector (BitVec 64) 32

/-- The state. The first block is R10; the second holds inputs and parameters, which are the model's own fields (log 1 to 4). -/
structure State where
  v          : Vector Byte 16
  pc         : Word
  i          : Word
  stk        : Vector Word 16
  sp         : Fin 17
  dt         : Byte
  st         : Byte
  mem        : Memory
  fb         : Frame
  prev       : BitVec 16
  mode       : Mode
  errKind    : ErrorKind
  errPc      : Word
  errOpcode  : Word
  keys       : BitVec 16
  random     : List Byte
  draws      : Nat
  schedule   : List HostMove
  params     : Params
  deriving DecidableEq, Repr

/-- The faults of the machine: none. Every error the spec names is a next state in `Mode.halted`
(spec/60_exceptions.md R190), no memory access can fail (R197), and no register is unreadable. -/
inductive Fault where
  deriving DecidableEq, Repr

/-- The refusals of the machine. -/
inductive Refusal where
  /-- Raised by an arm of `exec` whose instruction has no meaning yet; no arm of this model does. Safe: the machine stops. -/
  | notModelled (mnemonic : String)
  deriving DecidableEq, Repr

/-- What an instruction or a step answers. -/
abbrev Result := Host.Outcome State Fault Refusal

/-- The state after a reset with an empty ROM (R33, spec/70_reset_and_hazards.md R215). The stack entries are unspecified by
the spec: zero is a DESIGN CHOICE, unsafe (log 5). `keys`, `random`, `draws` and `schedule` are inputs: no key down, nothing
scheduled, DESIGN CHOICE (log 1 to 3). -/
def State.reset : State where
  v := .replicate 16 0
  pc := 0x200
  i := 0
  stk := .replicate 16 0
  sp := 0
  dt := 0
  st := 0
  mem := []
  fb := .replicate 32 0
  prev := 0
  mode := .running
  errKind := .none
  errPc := 0
  errOpcode := 0
  keys := 0
  random := []
  draws := 0
  schedule := []
  params := defaultParams

end Sys2Proof.Machine
end

