-- ==== Sys2Proof/Machine/Ops.lean ====
section
/-! DEFINITION. The named operations over memory, registers, stack, mode and inputs: the primitives of spec/00_scope.md R7,
raising an error (spec/60_exceptions.md R190) and the one way out of it, reset (spec/70_reset_and_hazards.md R215). -/

namespace Sys2Proof.Machine

open Sys2Proof.Config

/-! ## Memory -/

/-- What an address nothing has written reads as: its byte after a reset with an empty ROM, a font byte or zero (R22, R23). -/
def unlistedByte (p : Params) (a : Nat) : Byte :=
  if h : p.fontBase.val ≤ a ∧ a < p.fontBase.val + 80 then p.fontTable[a - p.fontBase.val]'(by omega) else 0

/-- The listed byte at an address. -/
def Memory.lookup (a : Nat) : Memory → Option Byte
  | [] => none
  | (k, b) :: m => if k = a then some b else Memory.lookup a m

/-- The memory with an address listed, in its place. -/
def Memory.insert (a : Nat) (b : Byte) : Memory → Memory
  | [] => [(a, b)]
  | (k, c) :: m => if a < k then (a, b) :: (k, c) :: m else if a = k then (a, b) :: m else (k, c) :: Memory.insert a b m

/-- The memory with an address no longer listed. -/
def Memory.erase (a : Nat) (m : Memory) : Memory := m.filter fun c => c.1 ≠ a

/-- One byte of memory. -/
def Memory.read (p : Params) (m : Memory) (a : Nat) : Byte := (Memory.lookup a m).getD (unlistedByte p a)

/-- The memory after one byte is written: an address that comes to hold what an unlisted address reads as is not listed. -/
def Memory.write (p : Params) (m : Memory) (a : Nat) (b : Byte) : Memory :=
  if b = unlistedByte p a then Memory.erase a m else Memory.insert a b m

/-- The memory after bytes are written at consecutive addresses. -/
def Memory.load (p : Params) (m : Memory) (a : Nat) : List Byte → Memory
  | [] => m
  | b :: bs => Memory.load p (Memory.write p m a b) (a + 1) bs

/-- The canonical form: addresses strictly rising and below 0x1000, and no entry equal to what an unlisted address reads as. -/
abbrev Memory.wf (p : Params) (m : Memory) : Prop :=
  m.Pairwise (fun c d => c.1 < d.1) ∧ ∀ c ∈ m, c.1 < 0x1000 ∧ c.2 ≠ unlistedByte p c.1

/-- `MemRead(addr, 1)` (spec/20_memory.md R41, R42). -/
def State.readByte (s : State) (a : Nat) : Byte := Memory.read s.params s.mem (a % memSize)

/-- `MemWrite(addr, 1, v)` (R41, R43). -/
def State.writeByte (s : State) (a : Nat) (b : Byte) : State :=
  { s with mem := Memory.write s.params s.mem (a % memSize) b }

/-- `MemRead(addr, 2)`: high byte first (R42, R44). -/
def State.readWord (s : State) (a : Nat) : Word := s.readByte a ++ s.readByte (a + 1)

/-! ## Registers -/

/-- A value kept to 12 significant bits: what a write of `pc` or `I` stores (spec/10_state.md R14, R16). -/
def wrap12 (t : Nat) : Word := BitVec.ofNat 16 (t % memSize)

/-- `V[x]` (R11). -/
def State.reg (s : State) (x : RegNum) : Byte := s.v[x.val]

/-- `V[x] <- b` (R11). -/
def State.setReg (s : State) (x : RegNum) (b : Byte) : State := { s with v := s.v.set x.val b }

/-- The number of VF (R12). -/
def regF : RegNum := 15

/-- `V[x] <- result`, then `V[0xF] <- flag`: the flag is written last (spec/41_alu.md R108). -/
def State.setRegAndFlag (s : State) (x : RegNum) (result flag : Byte) : State := (s.setReg x result).setReg regF flag

/-- `pc <- t` (R14). -/
def State.setPc (s : State) (t : Nat) : State := { s with pc := wrap12 t }

/-- `pc <- pc + 2` (spec/50_cycle.md R170). -/
def State.advance (s : State) : State := s.setPc (s.pc.toNat + 2)

/-- The end of a conditional skip: `pc <- pc + 4` if the predicate holds, else `pc <- pc + 2` (spec/40_flow.md R89). -/
def State.skipIf (s : State) (c : Bool) : State := s.setPc (s.pc.toNat + if c then 4 else 2)

/-- `I <- t` (R16). -/
def State.setI (s : State) (t : Nat) : State := { s with i := wrap12 t }

/-- `DT <- b` (R19). -/
def State.setDt (s : State) (b : Byte) : State := { s with dt := b }

/-- `ST <- b` (R20). -/
def State.setSt (s : State) (b : Byte) : State := { s with st := b }

/-- The framebuffer replaced (R26). -/
def State.setFb (s : State) (f : Frame) : State := { s with fb := f }

/-- `MODE <- m` (R29). -/
def State.setMode (s : State) (m : Mode) : State := { s with mode := m }

/-- `PREV <- KEYS` (R28). -/
def State.latchKeys (s : State) : State := { s with prev := s.keys }

/-! ## The call stack (R17, R18) -/

/-- `STK[SP] <- w`, then `SP <- SP + 1`. -/
def State.push (s : State) (w : Word) (h : s.sp.val < 16) : State :=
  { s with stk := s.stk.set s.sp.val w, sp := ⟨s.sp.val + 1, by omega⟩ }

/-- `SP <- SP - 1`. -/
def State.pop (s : State) : State := { s with sp := ⟨s.sp.val - 1, by omega⟩ }

/-- The most recent entry in use, `STK[SP - 1]`. -/
def State.stackTop (s : State) (h : 0 < s.sp.val) : Word := s.stk[s.sp.val - 1]'(by omega)

/-! ## Errors and reset -/

/-- The numeric code of an error (spec/60_exceptions.md R192), 3 bits. -/
def ErrorKind.code : ErrorKind → BitVec 3
  | .none => 0
  | .unknownOpcode => 1
  | .stackOverflow => 2
  | .stackUnderflow => 3
  | .romTooLarge => 4

/-- `raise E(pc, W)` (R190): the error record is written, the engine halts, nothing else changes. -/
def State.raise (s : State) (e : ErrorKind) (w : Word) : State :=
  { s with errKind := e, errPc := s.pc, errOpcode := w, mode := .halted }

/-- Everything a reset re-creates, with no ROM byte loaded (R215, R217). The inputs, the schedule and the parameters are not
state of CORE and stay (R34, R217). -/
def State.recreated (s : State) : State :=
  { State.reset with keys := s.keys, random := s.random, draws := s.draws, schedule := s.schedule, params := s.params }

/-- The `reset` event (R215), and the rejected ROM (R216, R189). The only way out of `Halted` (R195). -/
def State.resetWith (s : State) (rom : List Byte) : State :=
  if rom.length ≤ romMax then
    { s.recreated with mem := Memory.load s.params [] romBase rom }
  else
    { s.recreated with mode := .halted, errKind := .romTooLarge }

/-! ## Timers (spec/50_cycle.md R173) -/

/-- One count down, with floor 0. -/
def countDown (t : Byte) : Byte := if t = 0 then 0 else t - 1

/-- The timer tick, the same in every mode. -/
def State.timerTick (s : State) : State := { s with dt := countDown s.dt, st := countDown s.st }

/-! ## Inputs -/

/-- `KEYS[k]` (spec/10_state.md R27, spec/50_cycle.md R174). -/
def State.keyDown (s : State) (k : KeyNum) : Bool := s.keys.getLsbD k.val

/-- `RND`: the byte the random source presents next (R31). -/
def State.randomByte (s : State) : Byte :=
  match s.random with
  | b :: _ => b
  | [] => Config.randomByte s.draws

/-- The random source after one byte is consumed (spec/41_alu.md R112). -/
def State.consumeRandom (s : State) : State := { s with random := s.random.tail, draws := s.draws + 1 }

/-- The host's next move. Past the end of its schedule the host goes on with instruction ticks and no other move: DESIGN
CHOICE (log 1). -/
def State.nextMove (s : State) : HostMove :=
  match s.schedule with
  | [] => .instructionTick
  | m :: _ => m

/-- The state once the host's next move is taken off its schedule. -/
def State.afterMove (s : State) : State := { s with schedule := s.schedule.tail }

/-! ## Outputs (R32) -/

/-- `SOUND` (spec/60_exceptions.md R203). -/
def State.sound (s : State) : Bool := s.st ≠ 0

/-- `HALTED`. -/
def State.halted (s : State) : Bool := s.mode = .halted

/-- `WAITING`. -/
def State.waiting (s : State) : Bool :=
  match s.mode with
  | .awaitingKey _ => true
  | .running => false
  | .halted => false

end Sys2Proof.Machine
end

