-- ==== Sys2Proof/Machine/Flags.lean ====
section
/-! DEFINITION. The values that instructions write to VF as a flag (spec/10_state.md R12), stated on the unreduced operands
(spec/00_scope.md R8). The collision flag of DRW stands with the drawing in Display.lean. -/

namespace Sys2Proof.Machine

/-- A flag as the byte 1 or 0. -/
def flagByte (c : Bool) : Byte := if c then 1 else 0

/-- ADD Vx,Vy: `a + b > 255` (spec/41_alu.md R106). -/
def carryOut (a b : Byte) : Bool := a.toNat + b.toNat > 255

/-- SUB, SUBN: no borrow, minuend >= subtrahend (R107, R109). -/
def noBorrow (a b : Byte) : Bool := a.toNat ≥ b.toNat

/-- SHR: bit 0 of the register before the shift (R110). -/
def shiftedOutRight (a : Byte) : Bool := a.getLsbD 0

/-- SHL: bit 7 of the register before the shift (R111). -/
def shiftedOutLeft (a : Byte) : Bool := a.getLsbD 7

end Sys2Proof.Machine
end

