-- ==== Sys2Proof/Machine/Alu.lean ====
section
/-! DEFINITION. Register loads, arithmetic, logic, shifts and random (spec/41_alu.md). Operands are read before anything is
written (R108); sums and differences are exact and then reduced modulo 256 (R113). -/

namespace Sys2Proof.Machine

open Sys2Proof.Config

/-- `(a + b) mod 256` (R113). -/
def addBytes (a b : Byte) : Byte := BitVec.ofNat 8 (a.toNat + b.toNat)

/-- `(a - b) mod 256` (R113). -/
def subBytes (a b : Byte) : Byte := BitVec.ofInt 8 ((a.toNat : Int) - (b.toNat : Int))

/-- `(a << 1) mod 256` (R111). -/
def shiftLeft (a : Byte) : Byte := BitVec.ofNat 8 (2 * a.toNat)

/-- The bit SHR shifts in (R110). -/
def fillBit (f : ShrFill) (a : Byte) : Bool :=
  match f with
  | .zero => false
  | .sign => a.getLsbD 7

/-- `{ fill, a[7:1] }` (R110). -/
def shiftRight (f : ShrFill) (a : Byte) : Byte := BitVec.ofBool (fillBit f a) ++ a.extractLsb' 1 7

/-- LD Vx,NN (R100). -/
def execLdImm (x : RegNum) (nn : Byte) (s : State) : Result := .next (s.setReg x nn).advance

/-- ADD Vx,NN (R101): no flag. -/
def execAddImm (x : RegNum) (nn : Byte) (s : State) : Result := .next (s.setReg x (addBytes (s.reg x) nn)).advance

/-- LD Vx,Vy (R102). -/
def execLdReg (x y : RegNum) (s : State) : Result := .next (s.setReg x (s.reg y)).advance

/-- OR Vx,Vy (R103): no flag. -/
def execOrReg (x y : RegNum) (s : State) : Result := .next (s.setReg x (s.reg x ||| s.reg y)).advance

/-- AND Vx,Vy (R104): no flag. -/
def execAndReg (x y : RegNum) (s : State) : Result := .next (s.setReg x (s.reg x &&& s.reg y)).advance

/-- XOR Vx,Vy (R105): no flag. -/
def execXorReg (x y : RegNum) (s : State) : Result := .next (s.setReg x (s.reg x ^^^ s.reg y)).advance

/-- ADD Vx,Vy (R106). -/
def execAddReg (x y : RegNum) (s : State) : Result :=
  .next (s.setRegAndFlag x (addBytes (s.reg x) (s.reg y)) (flagByte (carryOut (s.reg x) (s.reg y)))).advance

/-- SUB Vx,Vy (R107). -/
def execSubReg (x y : RegNum) (s : State) : Result :=
  .next (s.setRegAndFlag x (subBytes (s.reg x) (s.reg y)) (flagByte (noBorrow (s.reg x) (s.reg y)))).advance

/-- SUBN Vx,Vy (R109): `V[Y] - V[X]`. -/
def execSubnReg (x y : RegNum) (s : State) : Result :=
  .next (s.setRegAndFlag x (subBytes (s.reg y) (s.reg x)) (flagByte (noBorrow (s.reg y) (s.reg x)))).advance

/-- SHR Vx (R110): the Y field is ignored. -/
def execShr (x _y : RegNum) (s : State) : Result :=
  .next (s.setRegAndFlag x (shiftRight s.params.shrFill (s.reg x)) (flagByte (shiftedOutRight (s.reg x)))).advance

/-- SHL Vx (R111): the Y field is ignored. -/
def execShl (x _y : RegNum) (s : State) : Result :=
  .next (s.setRegAndFlag x (shiftLeft (s.reg x)) (flagByte (shiftedOutLeft (s.reg x)))).advance

/-- RND Vx,NN (R112): one byte of the random source, masked. -/
def execRnd (x : RegNum) (nn : Byte) (s : State) : Result :=
  .next (s.consumeRandom.setReg x (s.randomByte &&& nn)).advance

end Sys2Proof.Machine
end

