-- ==== Sys2Proof/Syntax.lean ====
section
/-! DEFINITION. The instructions: one constructor for each of the 34 rows of spec/opcode_table.json (spec/30_encoding.md
R65), in the table's order. -/

namespace Sys2Proof

/-- An instruction. `x` and `y` are the register fields X and Y, `nn` and `nnn` the immediates NN and NNN, `n` the
sprite height N (R61). SHR and SHL keep their ignored Y field (R110), so that a word and its instruction determine each other. -/
inductive Instr where
  | cls
  | ret
  | jp      (nnn : BitVec 12)
  | call    (nnn : BitVec 12)
  | seImm   (x : RegNum) (nn : Byte)
  | sneImm  (x : RegNum) (nn : Byte)
  | seReg   (x y : RegNum)
  | ldImm   (x : RegNum) (nn : Byte)
  | addImm  (x : RegNum) (nn : Byte)
  | ldReg   (x y : RegNum)
  | orReg   (x y : RegNum)
  | andReg  (x y : RegNum)
  | xorReg  (x y : RegNum)
  | addReg  (x y : RegNum)
  | subReg  (x y : RegNum)
  | shr     (x y : RegNum)
  | subnReg (x y : RegNum)
  | shl     (x y : RegNum)
  | sneReg  (x y : RegNum)
  | ldI     (nnn : BitVec 12)
  | jpV0    (nnn : BitVec 12)
  | rnd     (x : RegNum) (nn : Byte)
  | drw     (x y : RegNum) (n : Nat)
  | skp     (x : RegNum)
  | sknp    (x : RegNum)
  | ldVxDT  (x : RegNum)
  | ldVxK   (x : RegNum)
  | ldDT    (x : RegNum)
  | ldST    (x : RegNum)
  | addI    (x : RegNum)
  | ldF     (x : RegNum)
  | ldB     (x : RegNum)
  | stRegs  (x : RegNum)
  | ldRegs  (x : RegNum)
  deriving DecidableEq, Repr

end Sys2Proof
end

