-- ==== Sys2Proof/Decode.lean ====
section
/-! DEFINITION. Decoding of bytes and words (spec/30_encoding.md R60 to R68), then the encoder, then the opcode map of R65 as
a list of rows. -/

namespace Sys2Proof

/-- Why bytes are no instruction. -/
inductive Reject where
  /-- The word matches no row of the opcode map (R67). -/
  | unknownOpcode (w : Word)
  /-- Fewer than two bytes: never the case for a fetch, which reads two (R60). -/
  | truncated
  deriving DecidableEq, Repr

/-! ## The fields of a word (R61) -/

def fieldOP (w : Word) : BitVec 4 := w.extractLsb' 12 4
def fieldX (w : Word) : RegNum := ⟨(w.extractLsb' 8 4).toNat, (w.extractLsb' 8 4).isLt⟩
def fieldY (w : Word) : RegNum := ⟨(w.extractLsb' 4 4).toNat, (w.extractLsb' 4 4).isLt⟩
def fieldN (w : Word) : BitVec 4 := w.extractLsb' 0 4
def fieldNN (w : Word) : Byte := w.extractLsb' 0 8
def fieldNNN (w : Word) : BitVec 12 := w.extractLsb' 0 12

/-! ## Decoding (R64, R65)

The major opcode OP selects the group; groups 5, 8 and 9 must match their minor nibble, groups E and F their minor byte, and
group 0 the whole word (decision D7: the whole pattern must match). -/

/-- Group 0: the whole word must be 0x00E0 or 0x00EE; every other `0NNN` is unknown (R64, spec/40_flow.md R88). -/
def decodeGroup0 (w : Word) : Except Reject Instr :=
  match w.toNat with
  | 0x00E0 => .ok .cls
  | 0x00EE => .ok .ret
  | _ => .error (.unknownOpcode w)

/-- Group 5: `5XY0`. -/
def decodeGroup5 (w : Word) : Except Reject Instr :=
  match (fieldN w).toNat with
  | 0x0 => .ok (.seReg (fieldX w) (fieldY w))
  | _ => .error (.unknownOpcode w)

/-- Group 8: the register-to-register group, by its minor nibble. -/
def decodeGroup8 (w : Word) : Except Reject Instr :=
  match (fieldN w).toNat with
  | 0x0 => .ok (.ldReg (fieldX w) (fieldY w))
  | 0x1 => .ok (.orReg (fieldX w) (fieldY w))
  | 0x2 => .ok (.andReg (fieldX w) (fieldY w))
  | 0x3 => .ok (.xorReg (fieldX w) (fieldY w))
  | 0x4 => .ok (.addReg (fieldX w) (fieldY w))
  | 0x5 => .ok (.subReg (fieldX w) (fieldY w))
  | 0x6 => .ok (.shr (fieldX w) (fieldY w))
  | 0x7 => .ok (.subnReg (fieldX w) (fieldY w))
  | 0xE => .ok (.shl (fieldX w) (fieldY w))
  | _ => .error (.unknownOpcode w)

/-- Group 9: `9XY0`. -/
def decodeGroup9 (w : Word) : Except Reject Instr :=
  match (fieldN w).toNat with
  | 0x0 => .ok (.sneReg (fieldX w) (fieldY w))
  | _ => .error (.unknownOpcode w)

/-- Group E: the key tests, by their minor byte. -/
def decodeGroupE (w : Word) : Except Reject Instr :=
  match (fieldNN w).toNat with
  | 0x9E => .ok (.skp (fieldX w))
  | 0xA1 => .ok (.sknp (fieldX w))
  | _ => .error (.unknownOpcode w)

/-- Group F: timers, key wait, index register and memory transfer, by their minor byte. -/
def decodeGroupF (w : Word) : Except Reject Instr :=
  match (fieldNN w).toNat with
  | 0x07 => .ok (.ldVxDT (fieldX w))
  | 0x0A => .ok (.ldVxK (fieldX w))
  | 0x15 => .ok (.ldDT (fieldX w))
  | 0x18 => .ok (.ldST (fieldX w))
  | 0x1E => .ok (.addI (fieldX w))
  | 0x29 => .ok (.ldF (fieldX w))
  | 0x33 => .ok (.ldB (fieldX w))
  | 0x55 => .ok (.stRegs (fieldX w))
  | 0x65 => .ok (.ldRegs (fieldX w))
  | _ => .error (.unknownOpcode w)

/-- R64: one word to one instruction, or unknown. It depends on the word only. -/
def decodeWord (w : Word) : Except Reject Instr :=
  match (fieldOP w).toNat with
  | 0x0 => decodeGroup0 w
  | 0x1 => .ok (.jp (fieldNNN w))
  | 0x2 => .ok (.call (fieldNNN w))
  | 0x3 => .ok (.seImm (fieldX w) (fieldNN w))
  | 0x4 => .ok (.sneImm (fieldX w) (fieldNN w))
  | 0x5 => decodeGroup5 w
  | 0x6 => .ok (.ldImm (fieldX w) (fieldNN w))
  | 0x7 => .ok (.addImm (fieldX w) (fieldNN w))
  | 0x8 => decodeGroup8 w
  | 0x9 => decodeGroup9 w
  | 0xA => .ok (.ldI (fieldNNN w))
  | 0xB => .ok (.jpV0 (fieldNNN w))
  | 0xC => .ok (.rnd (fieldX w) (fieldNN w))
  | 0xD => .ok (.drw (fieldX w) (fieldY w) (fieldN w).toNat)
  | 0xE => decodeGroupE w
  | 0xF => decodeGroupF w
  | _ => .error (.unknownOpcode w)

/-- The word of two bytes, high byte first (R60, spec/20_memory.md R42, R44). -/
def wordOfBytes (high low : Byte) : Word := high ++ low

/-- The two bytes of a word, the byte at the lower address first. -/
def bytesOfWord (w : Word) : Byte × Byte := (w.extractLsb' 8 8, w.extractLsb' 0 8)

/-- The instruction at the head of a byte string, and the bytes after it. -/
def decode : List Byte → Except Reject (Instr × List Byte)
  | high :: low :: rest => (decodeWord (wordOfBytes high low)).map fun i => (i, rest)
  | _ => .error .truncated

/-- The decoder on a word as spec/opcode_table.json numbers it: one 16-bit word, bit 0 its least significant bit; bits at and
above `nbits` are zero. The word is laid out high byte first and given to `decode`. -/
def decodeTableWord (nbits w : Nat) : Option Instr :=
  let bytes := bytesOfWord (BitVec.ofNat 16 (w % 2 ^ nbits))
  match decode [bytes.1, bytes.2] with
  | .ok (i, _) => some i
  | .error _ => none

/-! ## Encoding (R62, R65) -/

/-- A register number as a 4-bit field. -/
def regBits (x : RegNum) : BitVec 4 := BitVec.ofNat 4 x.val

/-- Format ADDR. -/
def wordADDR (op : BitVec 4) (nnn : BitVec 12) : Word := op ++ nnn

/-- Format REGIMM. -/
def wordREGIMM (op : BitVec 4) (x : RegNum) (nn : Byte) : Word := op ++ (regBits x ++ nn)

/-- Formats REGREG and DRAW: the last nibble is the minor opcode or N. -/
def wordREGREG (op : BitVec 4) (x y : RegNum) (n : BitVec 4) : Word := op ++ (regBits x ++ (regBits y ++ n))

/-- Format REG: the last byte is the minor opcode. -/
def wordREG (op : BitVec 4) (x : RegNum) (minor : Byte) : Word := op ++ (regBits x ++ minor)

/-- The word of an instruction, from the opcode map of R65. -/
def encode : Instr → Word
  | .cls => 0x00E0
  | .ret => 0x00EE
  | .jp nnn => wordADDR 0x1 nnn
  | .call nnn => wordADDR 0x2 nnn
  | .seImm x nn => wordREGIMM 0x3 x nn
  | .sneImm x nn => wordREGIMM 0x4 x nn
  | .seReg x y => wordREGREG 0x5 x y 0x0
  | .ldImm x nn => wordREGIMM 0x6 x nn
  | .addImm x nn => wordREGIMM 0x7 x nn
  | .ldReg x y => wordREGREG 0x8 x y 0x0
  | .orReg x y => wordREGREG 0x8 x y 0x1
  | .andReg x y => wordREGREG 0x8 x y 0x2
  | .xorReg x y => wordREGREG 0x8 x y 0x3
  | .addReg x y => wordREGREG 0x8 x y 0x4
  | .subReg x y => wordREGREG 0x8 x y 0x5
  | .shr x y => wordREGREG 0x8 x y 0x6
  | .subnReg x y => wordREGREG 0x8 x y 0x7
  | .shl x y => wordREGREG 0x8 x y 0xE
  | .sneReg x y => wordREGREG 0x9 x y 0x0
  | .ldI nnn => wordADDR 0xA nnn
  | .jpV0 nnn => wordADDR 0xB nnn
  | .rnd x nn => wordREGIMM 0xC x nn
  | .drw x y n => wordREGREG 0xD x y (BitVec.ofNat 4 n)
  | .skp x => wordREG 0xE x 0x9E
  | .sknp x => wordREG 0xE x 0xA1
  | .ldVxDT x => wordREG 0xF x 0x07
  | .ldVxK x => wordREG 0xF x 0x0A
  | .ldDT x => wordREG 0xF x 0x15
  | .ldST x => wordREG 0xF x 0x18
  | .addI x => wordREG 0xF x 0x1E
  | .ldF x => wordREG 0xF x 0x29
  | .ldB x => wordREG 0xF x 0x33
  | .stRegs x => wordREG 0xF x 0x55
  | .ldRegs x => wordREG 0xF x 0x65

/-- The bytes of an instruction, the byte at the lower address first. -/
def encodeBytes (i : Instr) : List Byte := [(bytesOfWord (encode i)).1, (bytesOfWord (encode i)).2]

/-! ## The opcode map as rows (R65) -/

/-- A row of the opcode map: a word `w` selects it when `w &&& mask = pattern`. -/
structure OpcodeRow where
  mask    : Word
  pattern : Word
  deriving DecidableEq, Repr

/-- The word selects the row (R65: `W & mask = match`). -/
def OpcodeRow.selects (r : OpcodeRow) (w : Word) : Bool := w &&& r.mask == r.pattern

/-- The 34 rows of R65, in the table's order. -/
def opcodeRows : List OpcodeRow :=
  [⟨0xFFFF, 0x00E0⟩, ⟨0xFFFF, 0x00EE⟩, ⟨0xF000, 0x1000⟩, ⟨0xF000, 0x2000⟩, ⟨0xF000, 0x3000⟩, ⟨0xF000, 0x4000⟩,
   ⟨0xF00F, 0x5000⟩, ⟨0xF000, 0x6000⟩, ⟨0xF000, 0x7000⟩, ⟨0xF00F, 0x8000⟩, ⟨0xF00F, 0x8001⟩, ⟨0xF00F, 0x8002⟩] ++
  [⟨0xF00F, 0x8003⟩, ⟨0xF00F, 0x8004⟩, ⟨0xF00F, 0x8005⟩, ⟨0xF00F, 0x8006⟩, ⟨0xF00F, 0x8007⟩, ⟨0xF00F, 0x800E⟩,
   ⟨0xF00F, 0x9000⟩, ⟨0xF000, 0xA000⟩, ⟨0xF000, 0xB000⟩, ⟨0xF000, 0xC000⟩, ⟨0xF000, 0xD000⟩] ++
  [⟨0xF0FF, 0xE09E⟩, ⟨0xF0FF, 0xE0A1⟩, ⟨0xF0FF, 0xF007⟩, ⟨0xF0FF, 0xF00A⟩, ⟨0xF0FF, 0xF015⟩, ⟨0xF0FF, 0xF018⟩,
   ⟨0xF0FF, 0xF01E⟩, ⟨0xF0FF, 0xF029⟩, ⟨0xF0FF, 0xF033⟩, ⟨0xF0FF, 0xF055⟩, ⟨0xF0FF, 0xF065⟩]

/-- The row of an instruction. -/
def rowOf : Instr → OpcodeRow
  | .cls => ⟨0xFFFF, 0x00E0⟩
  | .ret => ⟨0xFFFF, 0x00EE⟩
  | .jp _ => ⟨0xF000, 0x1000⟩
  | .call _ => ⟨0xF000, 0x2000⟩
  | .seImm _ _ => ⟨0xF000, 0x3000⟩
  | .sneImm _ _ => ⟨0xF000, 0x4000⟩
  | .seReg _ _ => ⟨0xF00F, 0x5000⟩
  | .ldImm _ _ => ⟨0xF000, 0x6000⟩
  | .addImm _ _ => ⟨0xF000, 0x7000⟩
  | .ldReg _ _ => ⟨0xF00F, 0x8000⟩
  | .orReg _ _ => ⟨0xF00F, 0x8001⟩
  | .andReg _ _ => ⟨0xF00F, 0x8002⟩
  | .xorReg _ _ => ⟨0xF00F, 0x8003⟩
  | .addReg _ _ => ⟨0xF00F, 0x8004⟩
  | .subReg _ _ => ⟨0xF00F, 0x8005⟩
  | .shr _ _ => ⟨0xF00F, 0x8006⟩
  | .subnReg _ _ => ⟨0xF00F, 0x8007⟩
  | .shl _ _ => ⟨0xF00F, 0x800E⟩
  | .sneReg _ _ => ⟨0xF00F, 0x9000⟩
  | .ldI _ => ⟨0xF000, 0xA000⟩
  | .jpV0 _ => ⟨0xF000, 0xB000⟩
  | .rnd _ _ => ⟨0xF000, 0xC000⟩
  | .drw _ _ _ => ⟨0xF000, 0xD000⟩
  | .skp _ => ⟨0xF0FF, 0xE09E⟩
  | .sknp _ => ⟨0xF0FF, 0xE0A1⟩
  | .ldVxDT _ => ⟨0xF0FF, 0xF007⟩
  | .ldVxK _ => ⟨0xF0FF, 0xF00A⟩
  | .ldDT _ => ⟨0xF0FF, 0xF015⟩
  | .ldST _ => ⟨0xF0FF, 0xF018⟩
  | .addI _ => ⟨0xF0FF, 0xF01E⟩
  | .ldF _ => ⟨0xF0FF, 0xF029⟩
  | .ldB _ => ⟨0xF0FF, 0xF033⟩
  | .stRegs _ => ⟨0xF0FF, 0xF055⟩
  | .ldRegs _ => ⟨0xF0FF, 0xF065⟩

end Sys2Proof
end

