-- ==== Sys2Proof/Machine/Control.lean ====
section
/-! DEFINITION. Control transfer (spec/40_flow.md). A target may be any address, even or odd (R89). -/

namespace Sys2Proof.Machine

/-- RET (R80): the popped entry goes to pc with no further advance. The word of the error record is 0x00EE (spec/60_exceptions.md R188). -/
def execRet (s : State) : Result :=
  if h : 0 < s.sp.val then .next (s.pop.setPc (s.stackTop h).toNat)
  else .next (s.raise .stackUnderflow (encode .ret))

/-- JP NNN (R81). -/
def execJp (nnn : BitVec 12) (s : State) : Result := .next (s.setPc nnn.toNat)

/-- CALL NNN (R82): pushes the address of the next instruction. The word of the error record is the `2NNN` word itself
(spec/60_exceptions.md R187). -/
def execCall (nnn : BitVec 12) (s : State) : Result :=
  if h : s.sp.val < 16 then .next ((s.push (wrap12 (s.pc.toNat + 2)) h).setPc nnn.toNat)
  else .next (s.raise .stackOverflow (encode (.call nnn)))

/-- SE Vx,NN (R83). -/
def execSeImm (x : RegNum) (nn : Byte) (s : State) : Result := .next (s.skipIf (s.reg x == nn))

/-- SNE Vx,NN (R84). -/
def execSneImm (x : RegNum) (nn : Byte) (s : State) : Result := .next (s.skipIf (s.reg x != nn))

/-- SE Vx,Vy (R85). -/
def execSeReg (x y : RegNum) (s : State) : Result := .next (s.skipIf (s.reg x == s.reg y))

/-- SNE Vx,Vy (R86). -/
def execSneReg (x y : RegNum) (s : State) : Result := .next (s.skipIf (s.reg x != s.reg y))

/-- JP V0,NNN (R87): the offset is V0 whatever the fields are. -/
def execJpV0 (nnn : BitVec 12) (s : State) : Result := .next (s.setPc (nnn.toNat + (s.reg 0).toNat))

end Sys2Proof.Machine
end

