-- ==== Sys2Proof/Machine/Operands.lean ====
section
/-! DEFINITION. The operand forms: the one addressing mode (spec/42_index_memory.md R126), the font digit (R122), the key index
(spec/44_keypad_timers.md R157), the decimal digits (R123), the sprite's start coordinates and bytes
(spec/43_display.md R136), and the registers V0 to Vx of a dump or load (R124, R125). -/

namespace Sys2Proof.Machine

open Sys2Proof.Config

/-- The effective address `(I + k) mod 0x1000` (R126). -/
def State.dataAddress (s : State) (k : Nat) : Nat := (s.i.toNat + k) % memSize

/-- `V[X] & 0x0F` as a key number (R157, decision D18). -/
def keyIndex (b : Byte) : KeyNum := ⟨b.toNat % 16, Nat.mod_lt _ (by decide)⟩

/-- `FONT_BASE + 5 * (V[X] & 0x0F)` (R122, decision D17). -/
def glyphAddress (p : Params) (b : Byte) : Nat := p.fontBase.val + 5 * (b.toNat % 16)

/-- The hundreds, tens and units of a byte, each as a whole byte (R123). -/
def hundreds (b : Byte) : Byte := BitVec.ofNat 8 (b.toNat / 100)
def tens (b : Byte) : Byte := BitVec.ofNat 8 (b.toNat / 10 % 10)
def units (b : Byte) : Byte := BitVec.ofNat 8 (b.toNat % 10)

/-- The column of the left edge of a sprite, `V[X] mod 64` (R136). -/
def startColumn (b : Byte) : Nat := b.toNat % fbWidth

/-- The row of the top edge of a sprite, `V[Y] mod 32` (R136). -/
def startRow (b : Byte) : Nat := b.toNat % fbHeight

/-- The `n` bytes of a sprite, from I on (R136). -/
def State.spriteBytes (s : State) (n : Nat) : List Byte :=
  (List.range n).map fun r => s.readByte (s.dataAddress r)

/-- V0 to Vx inclusive, ascending (R124, R125). -/
def regsUpTo (x : RegNum) : List RegNum := (List.finRange 16).filter (· ≤ x)

/-- `MemWrite(I + k, 1, V[k])` for each register listed (R124). -/
def State.storeRegs (s : State) : List RegNum → State
  | [] => s
  | k :: ks => (s.writeByte (s.dataAddress k.val) (s.reg k)).storeRegs ks

/-- `V[k] <- MemRead(I + k, 1)` for each register listed (R125). -/
def State.loadRegs (s : State) : List RegNum → State
  | [] => s
  | k :: ks => (s.setReg k (s.readByte (s.dataAddress k.val))).loadRegs ks

end Sys2Proof.Machine
end

