-- ==== Sys2Proof/Machine/Display.lean ====
section
/-! DEFINITION. The framebuffer and its two instructions (spec/43_display.md). -/

namespace Sys2Proof.Machine

open Sys2Proof.Config

/-- `FB[y][x]` (spec/10_state.md R25); outside the 64 by 32 grid there is no pixel, and the answer is `false`. -/
def Frame.pixel (f : Frame) (y x : Nat) : Bool := if h : y < 32 then f[y].getLsbD x else false

/-- `FB[y][x] <- FB[y][x] ^ 1`; outside the grid nothing changes. -/
def Frame.flip (f : Frame) (y x : Nat) : Frame := if h : y < 32 then f.set y (f[y] ^^^ BitVec.twoPow 64 x) else f

/-- The clear framebuffer (R135). -/
def Frame.clear : Frame := .replicate 32 0

/-- `Place(x, y)` (R137): where a sprite pixel lands, row and column, or none if it is not visible. -/
def place (e : SpriteEdge) (y x : Nat) : Option (Nat × Nat) :=
  match e with
  | .wrap => some (y % fbHeight, x % fbWidth)
  | .clip => if x < fbWidth ∧ y < fbHeight then some (y, x) else none

/-- The 1 bits of one sprite byte drawn at row `y` from column `x0` on: bit 7 is the leftmost (R138). -/
def spriteRow (y x0 : Nat) (b : Byte) : List (Nat × Nat) :=
  ((List.range 8).filter fun c => b.getLsbD (7 - c)).map fun c => (y, x0 + c)

/-- The 1 bits of a sprite in the order of R136, row by row, each before `Place`. -/
def spriteCells (y0 x0 : Nat) : List Byte → List (Nat × Nat)
  | [] => []
  | b :: bs => spriteRow y0 x0 b ++ spriteCells (y0 + 1) x0 bs

/-- One 1 bit of a sprite: the collision so far and the framebuffer after it (R136, R139). -/
def plot (e : SpriteEdge) (acc : Frame × Bool) (cell : Nat × Nat) : Frame × Bool :=
  match place e cell.1 cell.2 with
  | none => acc
  | some (y, x) => (Frame.flip acc.1 y x, acc.2 || Frame.pixel acc.1 y x)

/-- The loop of R136: the framebuffer after the sprite, and whether a pixel went from 1 to 0. -/
def blit (e : SpriteEdge) (f : Frame) (cells : List (Nat × Nat)) : Frame × Bool := cells.foldl (plot e) (f, false)

/-- CLS (R135): VF is not written. -/
def execCls (s : State) : Result := .next (s.setFb Frame.clear).advance

/-- What DRW makes of the framebuffer, and its collision flag (R136). -/
def State.drawn (s : State) (x y : RegNum) (n : Nat) : Frame × Bool :=
  blit s.params.spriteEdge s.fb (spriteCells (startRow (s.reg y)) (startColumn (s.reg x)) (s.spriteBytes n))

/-- DRW Vx,Vy,N (R136): VF is always written, after the coordinates are read. -/
def execDrw (x y : RegNum) (n : Nat) (s : State) : Result :=
  .next (((s.setFb (s.drawn x y n).1).setReg regF (flagByte (s.drawn x y n).2)).advance)

end Sys2Proof.Machine
end

