-- ==== Sys2Proof/Machine/IndexMemory.lean ====
section
/-! DEFINITION. The index register and memory transfer (spec/42_index_memory.md). I is unchanged by every instruction that uses
it as a base (R126). -/

namespace Sys2Proof.Machine

/-- LD I,NNN (R120). -/
def execLdI (nnn : BitVec 12) (s : State) : Result := .next (s.setI nnn.toNat).advance

/-- ADD I,Vx (R121): no flag. -/
def execAddI (x : RegNum) (s : State) : Result := .next (s.setI (s.i.toNat + (s.reg x).toNat)).advance

/-- LD F,Vx (R122). -/
def execLdF (x : RegNum) (s : State) : Result := .next (s.setI (glyphAddress s.params (s.reg x))).advance

/-- LD B,Vx (R123). -/
def execLdB (x : RegNum) (s : State) : Result :=
  .next (((s.writeByte (s.dataAddress 0) (hundreds (s.reg x))).writeByte (s.dataAddress 1) (tens (s.reg x))).writeByte
    (s.dataAddress 2) (units (s.reg x))).advance

/-- LD [I],Vx (R124). -/
def execStRegs (x : RegNum) (s : State) : Result := .next (s.storeRegs (regsUpTo x)).advance

/-- LD Vx,[I] (R125). -/
def execLdRegs (x : RegNum) (s : State) : Result := .next (s.loadRegs (regsUpTo x)).advance

end Sys2Proof.Machine
end

