-- ==== Sys2Proof/Machine/KeypadTimers.lean ====
section
/-! DEFINITION. Keypad and timer instructions, and the cycle that a key wait runs (spec/44_keypad_timers.md). -/

namespace Sys2Proof.Machine

/-- SKP Vx (R150): a level test of KEYS. -/
def execSkp (x : RegNum) (s : State) : Result := .next (s.skipIf (s.keyDown (keyIndex (s.reg x))))

/-- SKNP Vx (R151). -/
def execSknp (x : RegNum) (s : State) : Result := .next (s.skipIf (!s.keyDown (keyIndex (s.reg x))))

/-- LD Vx,DT (R152). -/
def execLdVxDT (x : RegNum) (s : State) : Result := .next (s.setReg x s.dt).advance

/-- LD DT,Vx (R153). -/
def execLdDT (x : RegNum) (s : State) : Result := .next (s.setDt (s.reg x)).advance

/-- LD ST,Vx (R154). -/
def execLdST (x : RegNum) (s : State) : Result := .next (s.setSt (s.reg x)).advance

/-- LD Vx,K (R155): the wait begins, pc stays. -/
def execLdVxK (x : RegNum) (s : State) : Result := .next (s.latchKeys.setMode (.awaitingKey x))

/-- A key is fresh: down now and not at the last check (R156). -/
def State.keyFresh (s : State) (k : KeyNum) : Bool := s.keys.getLsbD k.val && !s.prev.getLsbD k.val

/-- The fresh key of least number (R156, decision D19). -/
def State.firstFreshKey (s : State) : Option KeyNum := (List.finRange 16).find? s.keyFresh

/-- The `AwaitingKey(t)` cycle (R156, spec/50_cycle.md R171): no fetch, no decode. -/
def State.awaitKeyCycle (s : State) (t : RegNum) : State :=
  match s.firstFreshKey with
  | some j => ((s.latchKeys.setReg t (BitVec.ofNat 8 j.val)).advance).setMode .running
  | none => s.latchKeys

end Sys2Proof.Machine
end

