-- ==== Sys2Proof/Machine/Cycle.lean ====
section
/-! DEFINITION. The instruction cycle in each mode and the host's moves (spec/50_cycle.md), and how an instruction is put where
the next cycle fetches it. -/

namespace Sys2Proof.Machine

open Sys2Proof.Config

/-- Fetch (R169): the word at pc, high byte first. -/
def State.fetchWord (s : State) : Word := s.readWord s.pc.toNat

/-- One instruction tick (R168, R171, R172). -/
def instructionCycle (s : State) : Result :=
  match s.mode with
  | .running =>
    match decodeWord s.fetchWord with
    | .ok i => exec i s
    | .error _ => .next (s.raise .unknownOpcode s.fetchWord)
  | .awaitingKey t => .next (s.awaitKeyCycle t)
  | .halted => .next s

/-- One move of the host, processed whole (R166, R167, R177). -/
def perform (m : HostMove) (s : State) : Result :=
  match m with
  | .instructionTick => instructionCycle s
  | .timerTick => .next s.timerTick
  | .setKeys levels => .next { s with keys := levels }
  | .reset rom => .next (s.resetWith rom)

/-- The schedule with an instruction tick as the next move. -/
def tickNext : List HostMove → List HostMove
  | [] => []
  | .instructionTick :: ms => .instructionTick :: ms
  | m :: ms => .instructionTick :: m :: ms

/-- The two bytes of a word stored at pc and pc + 1, the engine running, and an instruction tick as the host's next move: all
that the very next cycle needs to fetch and run that word (R168, R169). -/
def State.placeWord (s : State) (w : Word) : State :=
  { (s.writeByte s.pc.toNat (bytesOfWord w).1).writeByte (s.pc.toNat + 1) (bytesOfWord w).2 with
    mode := .running, schedule := tickNext s.schedule }

end Sys2Proof.Machine
end

