-- ==== Sys2Proof/Machine/Step.lean ====
section
/-! DEFINITION. One step: the host's next move (spec/50_cycle.md R166). -/

namespace Sys2Proof.Machine

/-- One event of CORE, or one change of the key inputs: the move at the head of the schedule, and an instruction tick once the
schedule is used up (log 1). -/
def step (s : State) : Host.Outcome State Fault Refusal := perform s.nextMove s.afterMove

/-- The state with an instruction, numbered as spec/opcode_table.json numbers it, where the very next step fetches and runs
it (log 8). -/
def State.withFetchWord (s : State) (nbits w : Nat) : State := s.placeWord (BitVec.ofNat 16 (w % 2 ^ nbits))

end Sys2Proof.Machine
end

