-- ==== Sys2Proof/Safety.lean ====
section
/-! DEFINITION. What the statements about the machine say of its states: the invariant every step keeps, the frames, and the
ends of a run that the spec offers. -/

namespace Sys2Proof.Machine

/-- What holds of every state a run reaches: memory is in canonical form; pc, I and every stack entry in use are addresses
within memory (spec/10_state.md R14, R16, R17); and the error record says why and where the engine halted
(R29, R30, spec/60_exceptions.md R189, R190, R191). -/
structure State.Inv (s : State) : Prop where
  memCanonical   : Memory.wf s.params s.mem
  pcInMemory     : s.pc.toNat < 0x1000
  iInMemory      : s.i.toNat < 0x1000
  stackInMemory  : ∀ k : Fin 16, k.val < s.sp.val → (s.stk[k.val]).toNat < 0x1000
  haltedIffError : s.mode = .halted ↔ s.errKind ≠ .none
  errorAtPc      : s.errKind ≠ .none → s.errKind ≠ .romTooLarge → s.errPc = s.pc
  recordClear    : s.errKind = .none ∨ s.errKind = .romTooLarge → s.errPc = 0 ∧ s.errOpcode = 0

/-- Every byte of memory reads in `t` as in `s`. -/
def sameMemory (s t : State) : Prop := ∀ a, t.readByte a = s.readByte a

/-- `t` has every register, input and parameter of `s` but for V and pc, and every byte of memory. -/
def onlyVPc (s t : State) : Prop := t = { s with v := t.v, pc := t.pc } ∧ sameMemory s t

/-- pc has moved on by `d` bytes (spec/10_state.md R15). -/
def pcMoved (s t : State) (d : Nat) : Prop := t.pc.toNat = (s.pc.toNat + d) % 0x1000

/-- The sprite of `DRW Vx,Vy,n` has a 1 bit on the pixel in row `py`, column `px`: byte `r` of the sprite is at `I + r` and
lies in row `V[Y] mod 32 + r`, its bit `7 - c` in column `V[X] mod 64 + c` (spec/43_display.md R136, R138), and past an edge the
sprite wraps or is cut off as the parameter says (R137). -/
def State.spriteCovers (s : State) (x y : RegNum) (n py px : Nat) : Prop :=
  ∃ r c, r < n ∧ c < 8 ∧ (s.readByte (s.i.toNat + r)).getLsbD (7 - c) = true ∧
    match s.params.spriteEdge with
    | .wrap => py = ((s.reg y).toNat % 32 + r) % 32 ∧ px = ((s.reg x).toNat % 64 + c) % 64
    | .clip => py = (s.reg y).toNat % 32 + r ∧ px = (s.reg x).toNat % 64 + c ∧ py < 32 ∧ px < 64

/-- A skip's pc: 4 bytes on if the predicate holds, else 2 (spec/10_state.md R15). -/
def skipTarget (s : State) (c : Prop) [Decidable c] : Nat := (s.pc.toNat + if c then 4 else 2) % 0x1000

/-- Where the table of R15 says pc is after an instruction. An error leaves it unchanged: CALL on a full stack, RET on an
empty one. The reduction modulo 0x1000 is the spec's decision D15, the key tested its decision D18, the entry RET pops its
decision D20. -/
def pcAfter (s : State) : Instr → Nat
  | .cls => (s.pc.toNat + 2) % 0x1000
  | .ret => if s.sp = 0 then s.pc.toNat else ((s.stk[s.sp.val - 1]?).getD 0).toNat % 0x1000
  | .jp nnn => nnn.toNat
  | .call nnn => if s.sp = 16 then s.pc.toNat else nnn.toNat
  | .seImm x nn => skipTarget s (s.reg x = nn)
  | .sneImm x nn => skipTarget s (s.reg x ≠ nn)
  | .seReg x y => skipTarget s (s.reg x = s.reg y)
  | .ldImm _ _ => (s.pc.toNat + 2) % 0x1000
  | .addImm _ _ => (s.pc.toNat + 2) % 0x1000
  | .ldReg _ _ => (s.pc.toNat + 2) % 0x1000
  | .orReg _ _ => (s.pc.toNat + 2) % 0x1000
  | .andReg _ _ => (s.pc.toNat + 2) % 0x1000
  | .xorReg _ _ => (s.pc.toNat + 2) % 0x1000
  | .addReg _ _ => (s.pc.toNat + 2) % 0x1000
  | .subReg _ _ => (s.pc.toNat + 2) % 0x1000
  | .shr _ _ => (s.pc.toNat + 2) % 0x1000
  | .subnReg _ _ => (s.pc.toNat + 2) % 0x1000
  | .shl _ _ => (s.pc.toNat + 2) % 0x1000
  | .sneReg x y => skipTarget s (s.reg x ≠ s.reg y)
  | .ldI _ => (s.pc.toNat + 2) % 0x1000
  | .jpV0 nnn => (nnn.toNat + (s.reg 0).toNat) % 0x1000
  | .rnd _ _ => (s.pc.toNat + 2) % 0x1000
  | .drw _ _ _ => (s.pc.toNat + 2) % 0x1000
  | .skp x => skipTarget s (s.keys.getLsbD ((s.reg x).toNat % 16) = true)
  | .sknp x => skipTarget s (s.keys.getLsbD ((s.reg x).toNat % 16) = false)
  | .ldVxDT _ => (s.pc.toNat + 2) % 0x1000
  | .ldVxK _ => s.pc.toNat
  | .ldDT _ => (s.pc.toNat + 2) % 0x1000
  | .ldST _ => (s.pc.toNat + 2) % 0x1000
  | .addI _ => (s.pc.toNat + 2) % 0x1000
  | .ldF _ => (s.pc.toNat + 2) % 0x1000
  | .ldB _ => (s.pc.toNat + 2) % 0x1000
  | .stRegs _ => (s.pc.toNat + 2) % 0x1000
  | .ldRegs _ => (s.pc.toNat + 2) % 0x1000

/-- The general registers an instruction may write: its destination X, VF where it writes the flag, V0 to VX for a register
load (spec/10_state.md R12, R13). -/
def mayWrite : Instr → RegNum → Prop
  | .cls, _ => False
  | .ret, _ => False
  | .jp _, _ => False
  | .call _, _ => False
  | .seImm _ _, _ => False
  | .sneImm _ _, _ => False
  | .seReg _ _, _ => False
  | .ldImm x _, k => k = x
  | .addImm x _, k => k = x
  | .ldReg x _, k => k = x
  | .orReg x _, k => k = x
  | .andReg x _, k => k = x
  | .xorReg x _, k => k = x
  | .addReg x _, k => k = x ∨ k = 15
  | .subReg x _, k => k = x ∨ k = 15
  | .shr x _, k => k = x ∨ k = 15
  | .subnReg x _, k => k = x ∨ k = 15
  | .shl x _, k => k = x ∨ k = 15
  | .sneReg _ _, _ => False
  | .ldI _, _ => False
  | .jpV0 _, _ => False
  | .rnd x _, k => k = x
  | .drw _ _ _, k => k = 15
  | .skp _, _ => False
  | .sknp _, _ => False
  | .ldVxDT x, k => k = x
  | .ldVxK _, _ => False
  | .ldDT _, _ => False
  | .ldST _, _ => False
  | .addI _, _ => False
  | .ldF _, _ => False
  | .ldB _, _ => False
  | .stRegs _, _ => False
  | .ldRegs x, k => k ≤ x

/-- `END_OF_RUN` is open (spec/50_cycle.md R180, decision D28): this is the first predicate the spec offers, pc points at a
jump to itself. It does not say that the core stops or that the timers stop. -/
def State.atSelfJump (s : State) : Prop :=
  s.mode = .running ∧ ∃ nnn, decodeWord s.fetchWord = .ok (.jp nnn) ∧ nnn.toNat = s.pc.toNat

/-- The second predicate the spec offers, after `k` instruction ticks: that many are in the list of moves made. -/
def ticksMade (moves : List HostMove) (k : Nat) : Prop := moves.count .instructionTick = k

end Sys2Proof.Machine
end

