-- ==== Sys2Proof/Certificates/Slice0/Obligations.lean ====
section
/-! DEFINITION. The statements for the provers. Each docstring says which rule of spec/ it formalises; where a clause rests on
one of the spec's own decisions (D<n> of spec/92_eei_decisions.md) or on a choice of this model (log <n>), it says so. -/

open Sys2Proof Sys2Proof.Machine

/-! ## Encoding and decoding -/

/-- Words written out from the encodings of R65, one or more from each format and family, decode to the instruction they
stand for, and three unknown words do not decode (R64, R67; spec/95_test_vectors.md section 2.7). The bit patterns are the
spec's decision D4. -/
def Obligations.ListedWordsDecode : Prop :=
  decodeTableWord 16 0x00E0 = some .cls ∧ decodeTableWord 16 0x00EE = some .ret ∧
  decodeTableWord 16 0x1ABC = some (.jp 0xABC) ∧ decodeTableWord 16 0x6A02 = some (.ldImm 0xA 0x02) ∧
  decodeTableWord 16 0x8AB7 = some (.subnReg 0xA 0xB) ∧ decodeTableWord 16 0x8ABE = some (.shl 0xA 0xB) ∧
  decodeTableWord 16 0xDABF = some (.drw 0xA 0xB 15) ∧ decodeTableWord 16 0xE29E = some (.skp 2) ∧
  decodeTableWord 16 0xF30A = some (.ldVxK 3) ∧ decodeTableWord 16 0xFF65 = some (.ldRegs 0xF) ∧
  decodeTableWord 16 0x0000 = none ∧ decodeTableWord 16 0x5AB1 = none ∧ decodeTableWord 16 0xF075 = none

/-- Decoding the bytes of any well-formed instruction, whatever bytes follow, gives that instruction with every operand, and
leaves the bytes that follow (R61, R62, R65). The bit patterns are the spec's decision D4. -/
def Obligations.DecodeOfEncodeIsInstruction : Prop :=
  ∀ (i : Instr) (rest : List Byte), i.wellFormed = true → decode (encodeBytes i ++ rest) = .ok (i, rest)

/-- A word that decodes gives a well-formed instruction whose encoding is that word: no bit of a legal word is dropped
(R61, R65). Decisions D4 and D7. -/
def Obligations.EncodeOfDecodeIsWord : Prop :=
  ∀ (w : Word) (i : Instr), decodeWord w = .ok i → i.wellFormed = true ∧ encode i = w

/-- A word decodes exactly when it selects a row of the opcode map, the row is that of the instruction it decodes to, and it
selects no other row; otherwise it is unknown (R64, R65, R67). Decisions D4, D6, D7. -/
def Obligations.DecodesExactlyTheOpcodeMap : Prop :=
  ∀ w : Word,
    (∃ i, decodeWord w = .ok i ∧ ∀ r ∈ opcodeRows, r.selects w = true ↔ r = rowOf i) ∨
    (decodeWord w = .error (.unknownOpcode w) ∧ ∀ r ∈ opcodeRows, r.selects w = false)

/-! ## The cycle, the timer tick, the key wait, the halt -/

/-- R168: in Running mode an instruction tick whose two bytes at pc decode to `i` is `exec i`, at the state with the tick
taken off the host's schedule; the advance of pc is part of `exec` (the model's form, log 1). -/
def Obligations.StepRunsDecodedInstruction : Prop :=
  ∀ (s : State) (i : Instr), s.mode = .running → s.nextMove = .instructionTick →
    decode [s.readByte s.pc.toNat, s.readByte (s.pc.toNat + 1)] = .ok (i, []) → step s = exec i s.afterMove

/-- R186: a word that matches no row halts the engine, recording the address and the word, and changes nothing else. How
the record is held is the spec's decision D22. -/
def Obligations.UnknownWordHalts : Prop :=
  ∀ s : State, s.mode = .running → s.nextMove = .instructionTick →
    (∀ r ∈ opcodeRows, r.selects s.fetchWord = false) →
    step s = .next { s.afterMove with
      mode := .halted, errKind := .unknownOpcode, errPc := s.pc, errOpcode := s.fetchWord }

/-- R156, R171: an instruction tick while waiting stores the least fresh key in the target and goes on, or, with no fresh key,
changes only PREV. The meaning of "fresh" and "first" is the spec's decision D19. -/
def Obligations.AwaitingKeyCycle : Prop :=
  ∀ (s : State) (x : RegNum), s.mode = .awaitingKey x → s.nextMove = .instructionTick →
    ((∀ k : KeyNum, s.keys.getLsbD k.val = true → s.prev.getLsbD k.val = true) →
      step s = .next { s.afterMove with prev := s.keys }) ∧
    (∀ j : KeyNum, s.keys.getLsbD j.val = true → s.prev.getLsbD j.val = false →
      (∀ k : KeyNum, k < j → s.keys.getLsbD k.val = true → s.prev.getLsbD k.val = true) →
      ∃ t, step s = .next t ∧
        t = { s.afterMove with v := t.v, pc := t.pc, prev := s.keys, mode := .running } ∧
        (∀ k : RegNum, (t.reg k).toNat = if k = x then j.val else (s.reg k).toNat) ∧ pcMoved s t 2)

/-- R172: an instruction tick in Halted mode changes nothing (decision D23). -/
def Obligations.HaltedTickChangesNothing : Prop :=
  ∀ s : State, s.mode = .halted → s.nextMove = .instructionTick → step s = .next s.afterMove

/-- R173: a timer tick, in every mode, lowers each nonzero timer by one and changes nothing else. That it does so in Halted
mode too is the spec's decision D23. -/
def Obligations.TimerTickCountsDown : Prop :=
  ∀ s : State, s.nextMove = .timerTick →
    ∃ t, step s = .next t ∧ t = { s.afterMove with dt := t.dt, st := t.st } ∧
      t.dt.toNat = s.dt.toNat - 1 ∧ t.st.toNat = s.st.toNat - 1

/-- R200, S7: any number of timer ticks lowers each timer by that number, with floor 0, and in whatever mode. -/
def Obligations.TimerTicksRunDown : Prop :=
  ∀ (n : Nat) (s : State) (ms : List HostMove), s.schedule = List.replicate n .timerTick ++ ms →
    ∃ t : State, Sys2Proof.core.run n s = .next t ∧ t = { s with dt := t.dt, st := t.st, schedule := ms } ∧
      t.dt.toNat = s.dt.toNat - n ∧ t.st.toNat = s.st.toNat - n

/-- R195, R172, R207: from Halted, a move that is no reset leaves everything but the timers (and the host's own key inputs and
schedule) as it was: only reset leaves the halt. Decision D23. -/
def Obligations.OnlyResetLeavesHalted : Prop :=
  ∀ s t : State, s.mode = .halted → (∀ rom, s.nextMove ≠ .reset rom) → step s = .next t →
    t = { s with dt := t.dt, st := t.st, keys := t.keys, schedule := t.schedule }

/-! ## Reset -/

/-- R215, R217: a reset with a ROM of at most 0xE00 bytes, from any state whatever. Memory is the ROM from 0x200, the font
table at FONT_BASE, and zero elsewhere. The stack entries are left open, as the spec leaves them; the values the source does not
state are decision D24, and that the inputs and parameters stay is the model's form (log 12). -/
def Obligations.ResetLoadsRom : Prop :=
  ∀ (s : State) (rom : List Byte), rom.length ≤ 0xE00 → s.nextMove = .reset rom →
    ∃ t, step s = .next t ∧
      t = { State.reset with
        stk := t.stk, mem := t.mem, keys := s.keys, random := s.random, draws := s.draws, params := s.params,
        schedule := s.afterMove.schedule } ∧
      (∀ j, (h : j < rom.length) → t.readByte (0x200 + j) = rom[j]) ∧
      (∀ a, 0x200 + rom.length ≤ a → a < 0x1000 → t.readByte a = 0) ∧
      (∀ j, (h : j < 80) → t.readByte (s.params.fontBase.val + j) = s.params.fontTable[j]) ∧
      (∀ a, a < 0x200 → (a < s.params.fontBase.val ∨ s.params.fontBase.val + 80 ≤ a) → t.readByte a = 0)

/-- R216, R189: a longer ROM is rejected: the reset state with no ROM byte, but Halted with ERR_KIND 4. Decision D25; the
stack and the inputs as in ResetLoadsRom. -/
def Obligations.ResetRejectsLongRom : Prop :=
  ∀ (s : State) (rom : List Byte), 0xE00 < rom.length → s.nextMove = .reset rom →
    ∃ t, step s = .next t ∧
      t = { State.reset with
        stk := t.stk, mode := .halted, errKind := .romTooLarge, keys := s.keys, random := s.random, draws := s.draws,
        params := s.params, schedule := s.afterMove.schedule } ∧
      t.errKind.code = 4 ∧ (∀ a, 0x200 ≤ a → a < 0x1000 → t.readByte a = 0)

/-- R33: what reset leaves, at every register, pixel and byte of memory, for the default parameters of R5. STK is not part of
it (the spec leaves it open, log 5); decision D24. -/
def Obligations.ResetStateValues : Prop :=
  (∀ k : RegNum, State.reset.reg k = 0) ∧ State.reset.pc = 0x200 ∧ State.reset.i = 0 ∧ State.reset.sp = 0 ∧
  State.reset.dt = 0 ∧ State.reset.st = 0 ∧ (∀ y x, State.reset.fb.pixel y x = false) ∧ State.reset.prev = 0 ∧
  State.reset.mode = .running ∧ State.reset.errKind.code = 0 ∧ State.reset.errPc = 0 ∧ State.reset.errOpcode = 0 ∧
  (∀ a, a < 0x1000 → State.reset.readByte a = if h : 0x50 ≤ a ∧ a < 0xA0 then defaultFontTable[a - 0x50]'(by omega) else 0)

/-- The invariant holds at reset. -/
def Obligations.ResetMeetsInvariant : Prop := State.Inv State.reset

/-- Every step keeps the invariant: canonical memory, pc, I and stack entries in use within memory (R14, R16, R17), and an error
record that agrees with the mode (R29, R30, R191). The canonical form is the model's (log 9); the bound on pc is the spec's decision D15,
the record its decision D22. -/
def Obligations.StepKeepsInvariant : Prop :=
  ∀ s t : State, s.Inv → step s = .next t → t.Inv

/-! ## Whole-machine rules over all instructions -/

/-- R191, R196, R197: no instruction faults or is refused, in any state, and no step either: errors are next states. -/
def Obligations.EveryInstructionAnswers : Prop :=
  (∀ (i : Instr) (s : State), ∃ t, exec i s = .next t) ∧ ∀ s : State, ∃ t, step s = .next t

/-- R15, R170: pc after every instruction is what the table says, after an unknown word it is unchanged, and in the key wait
it moves on by 2 in the cycle that resolves the wait and not before. The sums modulo 0x1000 are the spec's decision D15, the key
that SKP and SKNP test its decision D18 (R157), the entry that RET pops its decision D20, which words are unknown its decisions
D4, D6 and D7 (log 6). -/
def Obligations.PcAfterEveryInstruction : Prop :=
  (∀ (i : Instr) (s t : State), exec i s = .next t → t.pc.toNat = pcAfter s i) ∧
  (∀ (s t : State), s.mode = .running → s.nextMove = .instructionTick → (∀ r ∈ opcodeRows, r.selects s.fetchWord = false) →
    step s = .next t → t.pc = s.pc) ∧
  (∀ (s t : State) (x : RegNum), s.mode = .awaitingKey x → s.nextMove = .instructionTick → step s = .next t →
    (t.mode = .running ∧ pcMoved s t 2) ∨ (t.mode = .awaitingKey x ∧ t.pc = s.pc))

/-- R12, R13: an instruction changes only its destination register, VF where it writes a flag, or V0 to VX for a register
load. In particular VF survives every other instruction. -/
def Obligations.RegistersWrittenByInstructions : Prop :=
  ∀ (i : Instr) (s t : State) (k : RegNum), exec i s = .next t → ¬ mayWrite i k → t.reg k = s.reg k

/-- R26: no instruction but CLS and DRW changes the framebuffer, and no step at all but one that runs them or a reset. -/
def Obligations.FramebufferWriters : Prop :=
  ∀ s t : State, step s = .next t → t.fb ≠ s.fb →
    (∃ rom, s.nextMove = .reset rom) ∨
    (s.mode = .running ∧ s.nextMove = .instructionTick ∧
      (decodeWord s.fetchWord = .ok .cls ∨ ∃ x y n, decodeWord s.fetchWord = .ok (.drw x y n)))

/-- R21, R46, R55: no step changes a byte of memory but one that runs LD B or LD [I],Vx, or a reset. -/
def Obligations.MemoryWriters : Prop :=
  ∀ s t : State, step s = .next t → (∃ a, t.readByte a ≠ s.readByte a) →
    (∃ rom, s.nextMove = .reset rom) ∨
    (s.mode = .running ∧ s.nextMove = .instructionTick ∧
      ∃ x, decodeWord s.fetchWord = .ok (.ldB x) ∨ decodeWord s.fetchWord = .ok (.stRegs x))

/-- R16, R18, R19, R20, R28: which instructions write I, the stack, the timers and PREV. That SP counts the
entries in use is the spec's decision D20, what writes PREV its decision D19. -/
def Obligations.SpecialRegisterWriters : Prop :=
  ∀ (i : Instr) (s t : State), exec i s = .next t →
    (t.i ≠ s.i → (∃ nnn, i = .ldI nnn) ∨ (∃ x, i = .addI x) ∨ ∃ x, i = .ldF x) ∧
    (t.stk ≠ s.stk → ∃ nnn, i = .call nnn) ∧
    (t.sp ≠ s.sp → (∃ nnn, i = .call nnn) ∨ i = .ret) ∧
    (t.dt ≠ s.dt → ∃ x, i = .ldDT x) ∧
    (t.st ≠ s.st → ∃ x, i = .ldST x) ∧
    (t.prev ≠ s.prev → ∃ x, i = .ldVxK x)

/-- R29, R185, R193: executed in Running mode, LD Vx,K alone begins a wait, CALL with a full stack and RET with an empty one
alone raise an error, and every other instruction leaves MODE and the error record as they were. Decisions D20, D22, D23. -/
def Obligations.ModeAndErrorWriters : Prop :=
  ∀ (i : Instr) (s t : State), s.mode = .running → exec i s = .next t →
    (t.mode = .running ∧ t.errKind = s.errKind ∧ t.errPc = s.errPc ∧ t.errOpcode = s.errOpcode ∧
      (∀ x, i ≠ .ldVxK x) ∧ (i = .ret → s.sp ≠ 0) ∧ ((∃ nnn, i = .call nnn) → s.sp ≠ 16)) ∨
    (∃ x, i = .ldVxK x ∧ t.mode = .awaitingKey x ∧ t.errKind = s.errKind ∧ t.errPc = s.errPc ∧ t.errOpcode = s.errOpcode) ∨
    (i = .ret ∧ s.sp = 0 ∧ t.mode = .halted ∧ t.errKind = .stackUnderflow) ∨
    (∃ nnn, i = .call nnn ∧ s.sp = 16 ∧ t.mode = .halted ∧ t.errKind = .stackOverflow)

/-- R34: no step changes the parameters; and the schedule only loses its first move (the model's form, log 1, log 4). -/
def Obligations.StepKeepsParameters : Prop :=
  ∀ s t : State, step s = .next t → t.params = s.params ∧ t.schedule = s.schedule.tail

/-- R191, R190: when an instruction tick halts a running engine, nothing has changed but the mode and the record; the record
holds the address of the instruction and the word fetched there; and the cause is an unknown word, CALL with a full stack or
RET with an empty one (R186, R187, R188). The record is the spec's decision D22. -/
def Obligations.ErrorsArePrecise : Prop :=
  ∀ s t : State, s.mode = .running → s.nextMove = .instructionTick → step s = .next t → t.mode = .halted →
    t = { s.afterMove with mode := .halted, errKind := t.errKind, errPc := s.pc, errOpcode := s.fetchWord } ∧
    ((t.errKind.code = 1 ∧ decodeWord s.fetchWord = .error (.unknownOpcode s.fetchWord)) ∨
     (t.errKind.code = 2 ∧ s.sp = 16 ∧ ∃ nnn, decodeWord s.fetchWord = .ok (.call nnn)) ∨
     (t.errKind.code = 3 ∧ s.sp = 0 ∧ decodeWord s.fetchWord = .ok .ret))

/-- R174, R175, R181: what an instruction does depends on the key inputs only in SKP, SKNP and LD Vx,K, and on the random
source only in RND: with other keys and another source the result is the same, but for those inputs themselves. -/
def Obligations.InputsReadOnlyWhereSaid : Prop :=
  ∀ (i : Instr) (s t : State), exec i s = .next t →
    ((∀ x, i ≠ .skp x) → (∀ x, i ≠ .sknp x) → (∀ x, i ≠ .ldVxK x) →
      ∀ ks, exec i { s with keys := ks } = .next { t with keys := ks }) ∧
    ((∀ x nn, i ≠ .rnd x nn) →
      ∀ rs d, exec i { s with random := rs, draws := d } = .next { t with random := rs, draws := d })

/-- Two memories in canonical form that read the same at every address are equal data. The canonical form is the model's
(log 9), not the spec's. -/
def Obligations.CanonicalMemoriesAreEqual : Prop :=
  ∀ (p : Config.Params) (m m' : Memory), Memory.wf p m → Memory.wf p m' →
    (∀ a, a < 0x1000 → Memory.read p m a = Memory.read p m' a) → m = m'

/-- R53: when LD [I],V1 stores over the two bytes of the next instruction, the next fetch is the stored word. -/
def Obligations.StoredWordIsFetched : Prop :=
  ∀ (s t : State) (x : RegNum), 1 ≤ x.val → s.i.toNat % 0x1000 = (s.pc.toNat + 2) % 0x1000 →
    exec (.stRegs x) s = .next t → t.fetchWord = s.reg 0 ++ s.reg 1

/-! ## Control flow -/

/-- R80: RET with a stack that is not empty. That the entry popped is STK[SP - 1] is the spec's decision D20. -/
def Obligations.RetPopsIntoPc : Prop :=
  ∀ s : State, s.sp ≠ 0 →
    ∃ t, exec .ret s = .next t ∧ t = { s with sp := t.sp, pc := t.pc } ∧ sameMemory s t ∧ t.sp.val + 1 = s.sp.val ∧
      ∃ e, s.stk[t.sp.val]? = some e ∧ t.pc.toNat = e.toNat % 0x1000

/-- R187, R188, R190: CALL with SP = 16 and RET with SP = 0 change only the mode and the error record. The record is the
spec's decision D22. -/
def Obligations.StackErrorsHalt : Prop :=
  ∀ s : State,
    (s.sp = 0 → exec .ret s = .next { s with
      mode := .halted, errKind := .stackUnderflow, errPc := s.pc, errOpcode := 0x00EE }) ∧
    (s.sp = 16 → ∀ nnn : BitVec 12, exec (.call nnn) s = .next { s with
      mode := .halted, errKind := .stackOverflow, errPc := s.pc, errOpcode := 0x2000 ||| nnn.setWidth 16 })

/-- R81. -/
def Obligations.JpSetsPc : Prop :=
  ∀ (s : State) (nnn : BitVec 12),
    ∃ t, exec (.jp nnn) s = .next t ∧ t = { s with pc := t.pc } ∧ sameMemory s t ∧ t.pc.toNat = nnn.toNat

/-- R82: CALL with room on the stack pushes the address after it and jumps. The pushed value is the spec's decision D21, the
count SP its decision D20. -/
def Obligations.CallPushesAndJumps : Prop :=
  ∀ (s : State) (nnn : BitVec 12), s.sp ≠ 16 →
    ∃ t, exec (.call nnn) s = .next t ∧ t = { s with stk := t.stk, sp := t.sp, pc := t.pc } ∧ sameMemory s t ∧
      t.sp.val = s.sp.val + 1 ∧ t.pc.toNat = nnn.toNat ∧
      ∀ k : Fin 16, (t.stk[k.val]).toNat =
        if k.val = s.sp.val then (s.pc.toNat + 2) % 0x1000 else (s.stk[k.val]).toNat

/-- R80, R82: a RET right after a CALL resumes at the instruction after the CALL with the stack as deep as before, whatever
the call's target. Decisions D20, D21. -/
def Obligations.RetAfterCallResumes : Prop :=
  ∀ (s : State) (nnn : BitVec 12), s.sp ≠ 16 →
    ∃ t u, exec (.call nnn) s = .next t ∧ exec .ret t = .next u ∧ pcMoved s u 2 ∧
      u = { s with stk := u.stk, pc := u.pc } ∧ ∀ k : Fin 16, k.val < s.sp.val → u.stk[k.val] = s.stk[k.val]

/-- R87: the sum with V0, reduced modulo 0x1000 (decision D15). -/
def Obligations.JpV0AddsOffset : Prop :=
  ∀ (s : State) (nnn : BitVec 12),
    ∃ t, exec (.jpV0 nnn) s = .next t ∧ t = { s with pc := t.pc } ∧ sameMemory s t ∧
      t.pc.toNat = (nnn.toNat + (s.reg 0).toNat) % 0x1000

/-- R83, R84: SE and SNE with an immediate. -/
def Obligations.SkipsOnImmediate : Prop :=
  ∀ (s : State) (x : RegNum) (nn : Byte),
    (∃ t, exec (.seImm x nn) s = .next t ∧ t = { s with pc := t.pc } ∧ sameMemory s t ∧
      pcMoved s t (if s.reg x = nn then 4 else 2)) ∧
    (∃ t, exec (.sneImm x nn) s = .next t ∧ t = { s with pc := t.pc } ∧ sameMemory s t ∧
      pcMoved s t (if s.reg x = nn then 2 else 4))

/-- R85, R86: SE and SNE with two registers. -/
def Obligations.SkipsOnRegisters : Prop :=
  ∀ (s : State) (x y : RegNum),
    (∃ t, exec (.seReg x y) s = .next t ∧ t = { s with pc := t.pc } ∧ sameMemory s t ∧
      pcMoved s t (if s.reg x = s.reg y then 4 else 2)) ∧
    (∃ t, exec (.sneReg x y) s = .next t ∧ t = { s with pc := t.pc } ∧ sameMemory s t ∧
      pcMoved s t (if s.reg x = s.reg y then 2 else 4))

/-- R150, R151: SKP and SKNP test the level of the key named by the low nibble (R157, decision D18), as
sampled at the start of the cycle (decision D31). -/
def Obligations.SkipsOnKey : Prop :=
  ∀ (s : State) (x : RegNum),
    (∃ t, exec (.skp x) s = .next t ∧ t = { s with pc := t.pc } ∧ sameMemory s t ∧
      pcMoved s t (if s.keys.getLsbD ((s.reg x).toNat % 16) = true then 4 else 2)) ∧
    (∃ t, exec (.sknp x) s = .next t ∧ t = { s with pc := t.pc } ∧ sameMemory s t ∧
      pcMoved s t (if s.keys.getLsbD ((s.reg x).toNat % 16) = true then 2 else 4))

/-! ## Loads, arithmetic, logic, shifts, random -/

/-- R100. -/
def Obligations.LdImmLoads : Prop :=
  ∀ (s : State) (x : RegNum) (nn : Byte),
    ∃ t, exec (.ldImm x nn) s = .next t ∧ onlyVPc s t ∧ pcMoved s t 2 ∧
      ∀ k : RegNum, t.reg k = if k = x then nn else s.reg k

/-- R101: VF is written only as the destination. -/
def Obligations.AddImmWraps : Prop :=
  ∀ (s : State) (x : RegNum) (nn : Byte),
    ∃ t, exec (.addImm x nn) s = .next t ∧ onlyVPc s t ∧ pcMoved s t 2 ∧
      ∀ k : RegNum, (t.reg k).toNat = if k = x then ((s.reg x).toNat + nn.toNat) % 256 else (s.reg k).toNat

/-- R102 (the spec admits the instruction by its decision D5). -/
def Obligations.LdRegCopies : Prop :=
  ∀ (s : State) (x y : RegNum),
    ∃ t, exec (.ldReg x y) s = .next t ∧ onlyVPc s t ∧ pcMoved s t 2 ∧
      ∀ k : RegNum, t.reg k = if k = x then s.reg y else s.reg k

/-- R103, R104, R105: bit by bit, and no flag. -/
def Obligations.LogicIsBitwise : Prop :=
  ∀ (s : State) (x y : RegNum),
    (∃ t, exec (.orReg x y) s = .next t ∧ onlyVPc s t ∧ pcMoved s t 2 ∧
      ∀ (k : RegNum) (b : Nat), (t.reg k).getLsbD b =
        if k = x then (s.reg x).getLsbD b || (s.reg y).getLsbD b else (s.reg k).getLsbD b) ∧
    (∃ t, exec (.andReg x y) s = .next t ∧ onlyVPc s t ∧ pcMoved s t 2 ∧
      ∀ (k : RegNum) (b : Nat), (t.reg k).getLsbD b =
        if k = x then (s.reg x).getLsbD b && (s.reg y).getLsbD b else (s.reg k).getLsbD b) ∧
    (∃ t, exec (.xorReg x y) s = .next t ∧ onlyVPc s t ∧ pcMoved s t 2 ∧
      ∀ (k : RegNum) (b : Nat), (t.reg k).getLsbD b =
        if k = x then Bool.xor ((s.reg x).getLsbD b) ((s.reg y).getLsbD b) else (s.reg k).getLsbD b)

/-- R106, S1: sum modulo 256, VF the carry. That the flag is written last, over the sum when X = F, is the spec's decision
D13. -/
def Obligations.AddRegSumAndCarry : Prop :=
  ∀ (s : State) (x y : RegNum),
    ∃ t, exec (.addReg x y) s = .next t ∧ onlyVPc s t ∧ pcMoved s t 2 ∧
      ∀ k : RegNum, (t.reg k).toNat =
        if k = 15 then (if (s.reg x).toNat + (s.reg y).toNat > 255 then 1 else 0)
        else if k = x then ((s.reg x).toNat + (s.reg y).toNat) % 256 else (s.reg k).toNat

/-- R107, S2: difference modulo 256, VF 1 when there is no borrow. That the flag is written last is the spec's decision D13. -/
def Obligations.SubRegDifferenceAndNoBorrow : Prop :=
  ∀ (s : State) (x y : RegNum),
    ∃ t, exec (.subReg x y) s = .next t ∧ onlyVPc s t ∧ pcMoved s t 2 ∧
      ∀ k : RegNum, ((t.reg k).toNat : Int) =
        if k = 15 then (if (s.reg x).toNat ≥ (s.reg y).toNat then 1 else 0)
        else if k = x then (((s.reg x).toNat : Int) - (s.reg y).toNat) % 256 else (s.reg k).toNat

/-- R109: the operands of SUB exchanged; the order is the spec's decision D14, the flag written
last its decision D13. -/
def Obligations.SubnRegReversesOperands : Prop :=
  ∀ (s : State) (x y : RegNum),
    ∃ t, exec (.subnReg x y) s = .next t ∧ onlyVPc s t ∧ pcMoved s t 2 ∧
      ∀ k : RegNum, ((t.reg k).toNat : Int) =
        if k = 15 then (if (s.reg y).toNat ≥ (s.reg x).toNat then 1 else 0)
        else if k = x then (((s.reg y).toNat : Int) - (s.reg x).toNat) % 256 else (s.reg k).toNat

/-- R110, R111: SHR and SHL of V[X] in place, VF the bit shifted out, written last, whatever Y is. The register shifted is
the spec's decision D11; the fill of SHR is its parameter SHR_FILL (decision D12); the flag last is decision D13. -/
def Obligations.ShiftsByOne : Prop :=
  ∀ (s : State) (x y : RegNum),
    (∃ t, exec (.shr x y) s = .next t ∧ onlyVPc s t ∧ pcMoved s t 2 ∧
      ∀ k : RegNum, (t.reg k).toNat =
        if k = 15 then (s.reg x).toNat % 2
        else if k = x then
          (s.reg x).toNat / 2 + (if s.params.shrFill = .sign ∧ 128 ≤ (s.reg x).toNat then 128 else 0)
        else (s.reg k).toNat) ∧
    (∃ t, exec (.shl x y) s = .next t ∧ onlyVPc s t ∧ pcMoved s t 2 ∧
      ∀ k : RegNum, (t.reg k).toNat =
        if k = 15 then (s.reg x).toNat / 128
        else if k = x then 2 * (s.reg x).toNat % 256 else (s.reg k).toNat)

/-- R112: one byte of the random source, whatever it is, masked; the source moves on by one byte. That the byte is any value
is the spec's decision D27; the list and the free value it comes from are the model's (log 3). -/
def Obligations.RndMasksRandomByte : Prop :=
  ∀ (s : State) (x : RegNum) (nn b : Byte),
    (s.random.head? = some b ∨ (s.random = [] ∧ b = Config.randomByte s.draws)) →
    ∃ t, exec (.rnd x nn) s = .next t ∧
      t = { s with v := t.v, pc := t.pc, random := s.random.tail, draws := s.draws + 1 } ∧ sameMemory s t ∧ pcMoved s t 2 ∧
      ∀ k : RegNum, t.reg k = if k = x then b &&& nn else s.reg k

/-! ## Index register and memory -/

/-- R120, R121: LD I,NNN and ADD I,Vx; neither writes VF. -/
def Obligations.IndexSetAndAdd : Prop :=
  (∀ (s : State) (nnn : BitVec 12),
    ∃ t, exec (.ldI nnn) s = .next t ∧ t = { s with i := t.i, pc := t.pc } ∧ sameMemory s t ∧ pcMoved s t 2 ∧
      t.i.toNat = nnn.toNat) ∧
  (∀ (s : State) (x : RegNum),
    ∃ t, exec (.addI x) s = .next t ∧ t = { s with i := t.i, pc := t.pc } ∧ sameMemory s t ∧ pcMoved s t 2 ∧
      t.i.toNat = (s.i.toNat + (s.reg x).toNat) % 0x1000)

/-- R122: the glyph of the low nibble, for every FONT_BASE (decisions D2, D17). -/
def Obligations.LdFPointsAtGlyph : Prop :=
  ∀ (s : State) (x : RegNum),
    ∃ t, exec (.ldF x) s = .next t ∧ t = { s with i := t.i, pc := t.pc } ∧ sameMemory s t ∧ pcMoved s t 2 ∧
      t.i.toNat = s.params.fontBase.val + 5 * ((s.reg x).toNat % 16)

/-- R123, S5: the three decimal digits at I, I + 1, I + 2 modulo 0x1000, and no other byte. -/
def Obligations.LdBStoresDigits : Prop :=
  ∀ (s : State) (x : RegNum),
    ∃ t, exec (.ldB x) s = .next t ∧ t = { s with mem := t.mem, pc := t.pc } ∧ pcMoved s t 2 ∧
      (t.readByte (s.dataAddress 0)).toNat = (s.reg x).toNat / 100 ∧
      (t.readByte (s.dataAddress 1)).toNat = (s.reg x).toNat / 10 % 10 ∧
      (t.readByte (s.dataAddress 2)).toNat = (s.reg x).toNat % 10 ∧
      ∀ a, (∀ k, k ≤ 2 → a % 0x1000 ≠ s.dataAddress k) → t.readByte a = s.readByte a

/-- R124: V0 to VX at I on, modulo 0x1000, and no other byte; I is unchanged (decision D16). -/
def Obligations.StRegsStoresRegisters : Prop :=
  ∀ (s : State) (x : RegNum),
    ∃ t, exec (.stRegs x) s = .next t ∧ t = { s with mem := t.mem, pc := t.pc } ∧ pcMoved s t 2 ∧
      (∀ k : RegNum, k ≤ x → t.readByte (s.dataAddress k.val) = s.reg k) ∧
      ∀ a, (∀ k, k ≤ x.val → a % 0x1000 ≠ s.dataAddress k) → t.readByte a = s.readByte a

/-- R125: V0 to VX from I on, modulo 0x1000; the registers above and I are unchanged (decision D16). -/
def Obligations.LdRegsLoadsRegisters : Prop :=
  ∀ (s : State) (x : RegNum),
    ∃ t, exec (.ldRegs x) s = .next t ∧ onlyVPc s t ∧ pcMoved s t 2 ∧
      ∀ k : RegNum, t.reg k = if k ≤ x then s.readByte (s.i.toNat + k.val) else s.reg k

/-- R124, R125: a register load right after a dump with the same X gives every register the value it had, whatever stands in the
registers in between (I is unchanged by both, decision D16). -/
def Obligations.LoadAfterDumpRestores : Prop :=
  ∀ (s : State) (x : RegNum) (v' : Vector Byte 16),
    ∃ t u, exec (.stRegs x) s = .next t ∧ exec (.ldRegs x) { t with v := v' } = .next u ∧
      ∀ k : RegNum, k ≤ x → u.reg k = s.reg k

/-! ## Display -/

/-- R135: every pixel off, VF not written. -/
def Obligations.ClsClearsFramebuffer : Prop :=
  ∀ s : State,
    ∃ t, exec .cls s = .next t ∧ t = { s with fb := t.fb, pc := t.pc } ∧ sameMemory s t ∧ pcMoved s t 2 ∧
      ∀ y x, t.fb.pixel y x = false

/-- R136, R137, R138: DRW flips exactly the pixels its sprite covers, writes VF 1 when it covers a pixel that was on and 0
otherwise, and changes no other register and no memory. Decisions D8, D9, D10. -/
def Obligations.DrwFlipsCoveredPixels : Prop :=
  ∀ (s : State) (x y : RegNum) (n : Nat), n < 16 →
    ∃ t, exec (.drw x y n) s = .next t ∧ t = { s with v := t.v, fb := t.fb, pc := t.pc } ∧ sameMemory s t ∧ pcMoved s t 2 ∧
      (∀ py px, s.spriteCovers x y n py px → t.fb.pixel py px = !s.fb.pixel py px) ∧
      (∀ py px, ¬ s.spriteCovers x y n py px → t.fb.pixel py px = s.fb.pixel py px) ∧
      (∀ k : RegNum, k ≠ 15 → t.reg k = s.reg k) ∧
      ((∃ py px, s.spriteCovers x y n py px ∧ s.fb.pixel py px = true) → t.reg 15 = 1) ∧
      ((∀ py px, s.spriteCovers x y n py px → s.fb.pixel py px = false) → t.reg 15 = 0)

/-- R139: VF is 1 exactly when some pixel that was on before this DRW is off after it, and 0 otherwise. -/
def Obligations.DrwCollisionFlag : Prop :=
  ∀ (s : State) (x y : RegNum) (n : Nat), n < 16 →
    ∃ t, exec (.drw x y n) s = .next t ∧
      ((∃ py px, s.fb.pixel py px = true ∧ t.fb.pixel py px = false) → t.reg 15 = 1) ∧
      ((¬ ∃ py px, s.fb.pixel py px = true ∧ t.fb.pixel py px = false) → t.reg 15 = 0)

/-- S6 of spec/95_test_vectors.md, R136: drawing the same sprite twice at the same place restores the framebuffer, as data. The
place is the same unless X or Y is VF and the first draw's flag moved it. A height of 0 is the spec's decision D8, what becomes
of a pixel past an edge its decision D9. -/
def Obligations.DrwTwiceRestoresFramebuffer : Prop :=
  ∀ (s : State) (x y : RegNum) (n : Nat), n < 16 →
    ∃ t u, exec (.drw x y n) s = .next t ∧ exec (.drw x y n) t = .next u ∧
      ((t.reg x).toNat % 64 = (s.reg x).toNat % 64 → (t.reg y).toNat % 32 = (s.reg y).toNat % 32 → u.fb = s.fb)

/-! ## Keypad and timers -/

/-- R152. -/
def Obligations.LdVxDTReadsTimer : Prop :=
  ∀ (s : State) (x : RegNum),
    ∃ t, exec (.ldVxDT x) s = .next t ∧ onlyVPc s t ∧ pcMoved s t 2 ∧
      ∀ k : RegNum, t.reg k = if k = x then s.dt else s.reg k

/-- R153, R154: the timers take the register; SOUND follows ST at once (R32, R203). -/
def Obligations.TimersAreSet : Prop :=
  ∀ (s : State) (x : RegNum),
    (∃ t, exec (.ldDT x) s = .next t ∧ t = { s with dt := s.reg x, pc := t.pc } ∧ sameMemory s t ∧ pcMoved s t 2) ∧
    (∃ t, exec (.ldST x) s = .next t ∧ t = { s with st := s.reg x, pc := t.pc } ∧ sameMemory s t ∧ pcMoved s t 2 ∧
      (t.sound = true ↔ s.reg x ≠ 0))

/-- R155: the wait begins, PREV takes the sample, pc stays (decision D19 for PREV). -/
def Obligations.LdVxKBeginsWait : Prop :=
  ∀ (s : State) (x : RegNum),
    ∃ t, exec (.ldVxK x) s = .next t ∧ t = { s with prev := s.keys, mode := .awaitingKey x } ∧ sameMemory s t ∧
      t.waiting = true
end

