-- ==== Sys2Proof/Laws/Decode.lean ====
section
/-! SUPPORT. The fields of an encoded word, format by format (spec/30_encoding.md R61, R62), and the word of its fields. -/

namespace Sys2Proof

@[simp] theorem regBits_toNat (x : RegNum) : (regBits x).toNat = x.val := by
  simp only [regBits, BitVec.toNat_ofNat]
  omega

theorem fieldOP_toNat (w : Word) : (fieldOP w).toNat = w.toNat / 4096 := by
  simp only [fieldOP, BitVec.extractLsb'_toNat, Nat.shiftRight_eq_div_pow]
  omega

theorem fieldX_val (w : Word) : (fieldX w).val = w.toNat / 256 % 16 := by
  simp [fieldX, BitVec.extractLsb'_toNat, Nat.shiftRight_eq_div_pow]

theorem fieldY_val (w : Word) : (fieldY w).val = w.toNat / 16 % 16 := by
  simp [fieldY, BitVec.extractLsb'_toNat, Nat.shiftRight_eq_div_pow]

theorem fieldN_toNat (w : Word) : (fieldN w).toNat = w.toNat % 16 := by
  simp [fieldN, BitVec.extractLsb'_toNat]

theorem fieldNN_toNat (w : Word) : (fieldNN w).toNat = w.toNat % 256 := by
  simp [fieldNN, BitVec.extractLsb'_toNat]

theorem fieldNNN_toNat (w : Word) : (fieldNNN w).toNat = w.toNat % 4096 := by
  simp [fieldNNN, BitVec.extractLsb'_toNat]

theorem append_toNat {m n : Nat} (a : BitVec m) (b : BitVec n) : (a ++ b).toNat = a.toNat * 2 ^ n + b.toNat := by
  rw [BitVec.toNat_append, Nat.shiftLeft_eq, Nat.mul_comm, ← Nat.two_pow_add_eq_or_of_lt b.isLt, Nat.mul_comm]

theorem wordADDR_toNat (op : BitVec 4) (nnn : BitVec 12) : (wordADDR op nnn).toNat = op.toNat * 4096 + nnn.toNat :=
  append_toNat op nnn

theorem wordREGIMM_toNat (op : BitVec 4) (x : RegNum) (nn : Byte) :
    (wordREGIMM op x nn).toNat = op.toNat * 4096 + x.val * 256 + nn.toNat := by
  have h : (wordREGIMM op x nn).toNat = op.toNat * 4096 + (regBits x ++ nn).toNat := append_toNat op _
  rw [h, append_toNat, regBits_toNat]
  omega

theorem wordREGREG_toNat (op : BitVec 4) (x y : RegNum) (n : BitVec 4) :
    (wordREGREG op x y n).toNat = op.toNat * 4096 + x.val * 256 + y.val * 16 + n.toNat := by
  have h : (wordREGREG op x y n).toNat = op.toNat * 4096 + (regBits x ++ (regBits y ++ n)).toNat := append_toNat op _
  have h2 : (regBits x ++ (regBits y ++ n)).toNat = (regBits x).toNat * 256 + (regBits y ++ n).toNat := append_toNat _ _
  rw [h, h2, append_toNat, regBits_toNat, regBits_toNat]
  omega

theorem wordREG_toNat (op : BitVec 4) (x : RegNum) (minor : Byte) :
    (wordREG op x minor).toNat = op.toNat * 4096 + x.val * 256 + minor.toNat := wordREGIMM_toNat op x minor

/-! ### Fields of encoded words -/

@[simp] theorem fieldOP_wordADDR (op : BitVec 4) (nnn : BitVec 12) : fieldOP (wordADDR op nnn) = op := by
  apply BitVec.eq_of_toNat_eq; rw [fieldOP_toNat, wordADDR_toNat]; omega

@[simp] theorem fieldNNN_wordADDR (op : BitVec 4) (nnn : BitVec 12) : fieldNNN (wordADDR op nnn) = nnn := by
  apply BitVec.eq_of_toNat_eq; rw [fieldNNN_toNat, wordADDR_toNat]; omega

@[simp] theorem fieldOP_wordREGIMM (op : BitVec 4) (x : RegNum) (nn : Byte) : fieldOP (wordREGIMM op x nn) = op := by
  apply BitVec.eq_of_toNat_eq; rw [fieldOP_toNat, wordREGIMM_toNat]; omega

@[simp] theorem fieldX_wordREGIMM (op : BitVec 4) (x : RegNum) (nn : Byte) : fieldX (wordREGIMM op x nn) = x := by
  apply Fin.ext; rw [fieldX_val, wordREGIMM_toNat]; omega

@[simp] theorem fieldNN_wordREGIMM (op : BitVec 4) (x : RegNum) (nn : Byte) : fieldNN (wordREGIMM op x nn) = nn := by
  apply BitVec.eq_of_toNat_eq; rw [fieldNN_toNat, wordREGIMM_toNat]; omega

@[simp] theorem fieldOP_wordREG (op : BitVec 4) (x : RegNum) (nn : Byte) : fieldOP (wordREG op x nn) = op :=
  fieldOP_wordREGIMM op x nn

@[simp] theorem fieldX_wordREG (op : BitVec 4) (x : RegNum) (nn : Byte) : fieldX (wordREG op x nn) = x :=
  fieldX_wordREGIMM op x nn

@[simp] theorem fieldNN_wordREG (op : BitVec 4) (x : RegNum) (nn : Byte) : fieldNN (wordREG op x nn) = nn :=
  fieldNN_wordREGIMM op x nn

@[simp] theorem fieldOP_wordREGREG (op : BitVec 4) (x y : RegNum) (n : BitVec 4) :
    fieldOP (wordREGREG op x y n) = op := by
  apply BitVec.eq_of_toNat_eq; rw [fieldOP_toNat, wordREGREG_toNat]; omega

@[simp] theorem fieldX_wordREGREG (op : BitVec 4) (x y : RegNum) (n : BitVec 4) :
    fieldX (wordREGREG op x y n) = x := by
  apply Fin.ext; rw [fieldX_val, wordREGREG_toNat]; omega

@[simp] theorem fieldY_wordREGREG (op : BitVec 4) (x y : RegNum) (n : BitVec 4) :
    fieldY (wordREGREG op x y n) = y := by
  apply Fin.ext; rw [fieldY_val, wordREGREG_toNat]; omega

@[simp] theorem fieldN_wordREGREG (op : BitVec 4) (x y : RegNum) (n : BitVec 4) :
    fieldN (wordREGREG op x y n) = n := by
  apply BitVec.eq_of_toNat_eq; rw [fieldN_toNat, wordREGREG_toNat]; omega

/-! ### Words and bytes -/

/-- The bytes of a word make the word again (R44). -/
@[simp] theorem wordOfBytes_bytesOfWord (w : Word) : wordOfBytes (bytesOfWord w).1 (bytesOfWord w).2 = w := by
  apply BitVec.eq_of_toNat_eq
  simp only [wordOfBytes, bytesOfWord]
  rw [append_toNat, BitVec.extractLsb'_toNat, BitVec.extractLsb'_toNat, Nat.shiftRight_eq_div_pow]
  have := w.isLt
  simp only [Nat.shiftRight_zero]
  omega

end Sys2Proof
end

