-- ==== Sys2Proof/Laws/Memory.lean ====
section
/-! SUPPORT. Memory as a canonical list: a read after a write, and every write keeps the canonical form. -/

namespace Sys2Proof.Machine

open Sys2Proof.Config

variable {p : Params} {m : Memory} {a c : Nat} {b : Byte}

theorem lookup_insert : Memory.lookup c (Memory.insert a b m) = if c = a then some b else Memory.lookup c m := by
  induction m with
  | nil => simp [Memory.insert, Memory.lookup, eq_comm]
  | cons e m ih =>
    obtain ⟨k, d⟩ := e
    simp only [Memory.insert]
    split
    · simp only [Memory.lookup, eq_comm (a := a)]
    · split
      · subst_vars
        simp only [Memory.lookup, eq_comm (a := k)]
        split <;> rfl
      · simp only [Memory.lookup, ih]
        split <;> split <;> first | rfl | omega

theorem lookup_erase : Memory.lookup c (Memory.erase a m) = if c = a then none else Memory.lookup c m := by
  induction m with
  | nil => simp [Memory.erase, Memory.lookup]
  | cons e m ih =>
    obtain ⟨k, d⟩ := e
    simp only [Memory.erase] at ih
    by_cases hk : k = a
    · subst hk
      simp only [Memory.erase, List.filter_cons, ne_eq, not_true_eq_false, decide_false, Bool.false_eq_true, if_false, ih,
        Memory.lookup, eq_comm (a := k)]
      split <;> rfl
    · simp only [Memory.erase, List.filter_cons, ne_eq, hk, not_false_eq_true, decide_true, if_true, Memory.lookup, ih]
      split <;> split <;> first | rfl | omega

/-- A read after a write (spec/20_memory.md R43, R51). -/
theorem read_write : Memory.read p (Memory.write p m a b) c = if c = a then b else Memory.read p m c := by
  simp only [Memory.read, Memory.write]
  split
  · rw [lookup_erase]
    split
    · subst_vars; rfl
    · rfl
  · rw [lookup_insert]
    split <;> rfl

theorem mem_insert {e : Host.Cell} (h : e ∈ Memory.insert a b m) : e = (a, b) ∨ e ∈ m := by
  induction m with
  | nil => simpa [Memory.insert] using h
  | cons f m ih =>
    obtain ⟨k, d⟩ := f
    simp only [Memory.insert] at h
    split at h
    · simpa using h
    · split at h
      · rcases List.mem_cons.mp h with h | h
        · exact .inl h
        · exact .inr (by simp [h])
      · rcases List.mem_cons.mp h with h | h
        · exact .inr (by simp [h])
        · rcases ih h with h | h
          · exact .inl h
          · exact .inr (by simp [h])

theorem mem_erase {e : Host.Cell} (h : e ∈ Memory.erase a m) : e ∈ m := (List.mem_filter.mp h).1

theorem pairwise_insert (h : m.Pairwise (fun x y : Host.Cell => x.1 < y.1)) :
    (Memory.insert a b m).Pairwise (fun x y : Host.Cell => x.1 < y.1) := by
  induction m with
  | nil => simp [Memory.insert]
  | cons f m ih =>
    obtain ⟨k, d⟩ := f
    obtain ⟨hk, hm⟩ := List.pairwise_cons.mp h
    simp only [Memory.insert]
    split
    · rename_i hak
      refine List.pairwise_cons.mpr ⟨fun e he => ?_, h⟩
      rcases List.mem_cons.mp he with he | he
      · simpa [he] using hak
      · exact lt_trans hak (hk e he)
    · split
      · subst_vars
        exact List.pairwise_cons.mpr ⟨hk, hm⟩
      · refine List.pairwise_cons.mpr ⟨fun e he => ?_, ih hm⟩
        rcases mem_insert he with he | he
        · subst he; change k < a; omega
        · exact hk e he

theorem pairwise_erase (h : m.Pairwise (fun x y : Host.Cell => x.1 < y.1)) :
    (Memory.erase a m).Pairwise (fun x y : Host.Cell => x.1 < y.1) := h.filter _

/-- A write keeps the canonical form. -/
theorem write_wf (h : Memory.wf p m) (ha : a < 0x1000) : Memory.wf p (Memory.write p m a b) := by
  simp only [Memory.write]
  split
  · exact ⟨pairwise_erase h.1, fun e he => h.2 e (mem_erase he)⟩
  · refine ⟨pairwise_insert h.1, fun e he => ?_⟩
    rcases mem_insert he with he | he
    · subst he; exact ⟨ha, by assumption⟩
    · exact h.2 e he

/-- The empty list is canonical: memory after a reset with an empty ROM. -/
theorem nil_wf : Memory.wf p [] := by simp [Memory.wf]

/-- Loading bytes within memory keeps the canonical form. -/
theorem load_wf (bs : List Byte) (h : Memory.wf p m) (ha : a + bs.length ≤ 0x1000) :
    Memory.wf p (Memory.load p m a bs) := by
  induction bs generalizing m a with
  | nil => exact h
  | cons b bs ih =>
    simp only [List.length_cons] at ha
    exact ih (write_wf h (by omega)) (by omega)

/-- What loading bytes leaves at an address (spec/70_reset_and_hazards.md R215). -/
theorem read_load (bs : List Byte) :
    Memory.read p (Memory.load p m a bs) c =
      if a ≤ c then (bs[c - a]?).getD (Memory.read p m c) else Memory.read p m c := by
  induction bs generalizing m a with
  | nil => simp [Memory.load]
  | cons b bs ih =>
    simp only [Memory.load, ih, read_write]
    rcases lt_trichotomy c a with hc | hc | hc
    · rw [if_neg (by omega), if_neg (by omega), if_neg (by omega)]
    · subst hc
      rw [if_neg (by omega), if_pos rfl, if_pos (le_refl c)]
      simp
    · rw [if_pos (by omega), if_neg (by omega), if_pos (by omega)]
      obtain ⟨d, rfl⟩ : ∃ d, c = a + 1 + d := ⟨c - (a + 1), by omega⟩
      rw [show a + 1 + d - (a + 1) = d by omega, show a + 1 + d - a = d + 1 by omega]
      simp

/-- A listed address reads as its byte in a canonical memory, and the byte is not the unlisted one. -/
theorem lookup_ne_unlisted (h : Memory.wf p m) (hl : Memory.lookup a m = some b) : b ≠ unlistedByte p a := by
  induction m with
  | nil => simp [Memory.lookup] at hl
  | cons e m ih =>
    obtain ⟨k, d⟩ := e
    simp only [Memory.lookup] at hl
    split at hl
    · subst_vars
      have := (h.2 (k, d) (by simp)).2
      simp_all
    · exact ih ⟨(List.pairwise_cons.mp h.1).2, fun e he => h.2 e (by simp [he])⟩ hl

end Sys2Proof.Machine
end

