-- ==== Sys2Proof/Laws/State.lean ====
section
/-! SUPPORT. The fields of a state after each update, one lemma per field per update, and the two readers `reg` and
`readByte` after each update that leaves what they read alone. -/

namespace Sys2Proof.Machine

variable (s : State)

/-! ### setReg -/

@[simp] theorem setReg_v (x : RegNum) (b : Byte) : (s.setReg x b).v = s.v.set x.val b := rfl
@[simp] theorem setReg_pc (x : RegNum) (b : Byte) : (s.setReg x b).pc = s.pc := rfl
@[simp] theorem setReg_i (x : RegNum) (b : Byte) : (s.setReg x b).i = s.i := rfl
@[simp] theorem setReg_stk (x : RegNum) (b : Byte) : (s.setReg x b).stk = s.stk := rfl
@[simp] theorem setReg_sp (x : RegNum) (b : Byte) : (s.setReg x b).sp = s.sp := rfl
@[simp] theorem setReg_dt (x : RegNum) (b : Byte) : (s.setReg x b).dt = s.dt := rfl
@[simp] theorem setReg_st (x : RegNum) (b : Byte) : (s.setReg x b).st = s.st := rfl
@[simp] theorem setReg_mem (x : RegNum) (b : Byte) : (s.setReg x b).mem = s.mem := rfl
@[simp] theorem setReg_fb (x : RegNum) (b : Byte) : (s.setReg x b).fb = s.fb := rfl
@[simp] theorem setReg_prev (x : RegNum) (b : Byte) : (s.setReg x b).prev = s.prev := rfl
@[simp] theorem setReg_mode (x : RegNum) (b : Byte) : (s.setReg x b).mode = s.mode := rfl
@[simp] theorem setReg_errKind (x : RegNum) (b : Byte) : (s.setReg x b).errKind = s.errKind := rfl
@[simp] theorem setReg_errPc (x : RegNum) (b : Byte) : (s.setReg x b).errPc = s.errPc := rfl
@[simp] theorem setReg_errOpcode (x : RegNum) (b : Byte) : (s.setReg x b).errOpcode = s.errOpcode := rfl
@[simp] theorem setReg_keys (x : RegNum) (b : Byte) : (s.setReg x b).keys = s.keys := rfl
@[simp] theorem setReg_random (x : RegNum) (b : Byte) : (s.setReg x b).random = s.random := rfl
@[simp] theorem setReg_draws (x : RegNum) (b : Byte) : (s.setReg x b).draws = s.draws := rfl
@[simp] theorem setReg_schedule (x : RegNum) (b : Byte) : (s.setReg x b).schedule = s.schedule := rfl
@[simp] theorem setReg_params (x : RegNum) (b : Byte) : (s.setReg x b).params = s.params := rfl
@[simp] theorem setReg_readByte (x : RegNum) (b : Byte) (a' : Nat) : (s.setReg x b).readByte a' = s.readByte a' := rfl
@[simp] theorem setReg_dataAddress (x : RegNum) (b : Byte) (k : Nat) : (s.setReg x b).dataAddress k = s.dataAddress k := rfl

/-! ### setRegAndFlag -/

@[simp] theorem setRegAndFlag_v (x : RegNum) (r f : Byte) : (s.setRegAndFlag x r f).v = (s.v.set x.val r).set regF.val f := rfl
@[simp] theorem setRegAndFlag_pc (x : RegNum) (r f : Byte) : (s.setRegAndFlag x r f).pc = s.pc := rfl
@[simp] theorem setRegAndFlag_i (x : RegNum) (r f : Byte) : (s.setRegAndFlag x r f).i = s.i := rfl
@[simp] theorem setRegAndFlag_stk (x : RegNum) (r f : Byte) : (s.setRegAndFlag x r f).stk = s.stk := rfl
@[simp] theorem setRegAndFlag_sp (x : RegNum) (r f : Byte) : (s.setRegAndFlag x r f).sp = s.sp := rfl
@[simp] theorem setRegAndFlag_dt (x : RegNum) (r f : Byte) : (s.setRegAndFlag x r f).dt = s.dt := rfl
@[simp] theorem setRegAndFlag_st (x : RegNum) (r f : Byte) : (s.setRegAndFlag x r f).st = s.st := rfl
@[simp] theorem setRegAndFlag_mem (x : RegNum) (r f : Byte) : (s.setRegAndFlag x r f).mem = s.mem := rfl
@[simp] theorem setRegAndFlag_fb (x : RegNum) (r f : Byte) : (s.setRegAndFlag x r f).fb = s.fb := rfl
@[simp] theorem setRegAndFlag_prev (x : RegNum) (r f : Byte) : (s.setRegAndFlag x r f).prev = s.prev := rfl
@[simp] theorem setRegAndFlag_mode (x : RegNum) (r f : Byte) : (s.setRegAndFlag x r f).mode = s.mode := rfl
@[simp] theorem setRegAndFlag_errKind (x : RegNum) (r f : Byte) : (s.setRegAndFlag x r f).errKind = s.errKind := rfl
@[simp] theorem setRegAndFlag_errPc (x : RegNum) (r f : Byte) : (s.setRegAndFlag x r f).errPc = s.errPc := rfl
@[simp] theorem setRegAndFlag_errOpcode (x : RegNum) (r f : Byte) : (s.setRegAndFlag x r f).errOpcode = s.errOpcode := rfl
@[simp] theorem setRegAndFlag_keys (x : RegNum) (r f : Byte) : (s.setRegAndFlag x r f).keys = s.keys := rfl
@[simp] theorem setRegAndFlag_random (x : RegNum) (r f : Byte) : (s.setRegAndFlag x r f).random = s.random := rfl
@[simp] theorem setRegAndFlag_draws (x : RegNum) (r f : Byte) : (s.setRegAndFlag x r f).draws = s.draws := rfl
@[simp] theorem setRegAndFlag_schedule (x : RegNum) (r f : Byte) : (s.setRegAndFlag x r f).schedule = s.schedule := rfl
@[simp] theorem setRegAndFlag_params (x : RegNum) (r f : Byte) : (s.setRegAndFlag x r f).params = s.params := rfl
@[simp] theorem setRegAndFlag_readByte (x : RegNum) (r f : Byte) (a' : Nat) : (s.setRegAndFlag x r f).readByte a' = s.readByte a' := rfl
@[simp] theorem setRegAndFlag_dataAddress (x : RegNum) (r f : Byte) (k : Nat) : (s.setRegAndFlag x r f).dataAddress k = s.dataAddress k := rfl

/-! ### setPc -/

@[simp] theorem setPc_v (t : Nat) : (s.setPc t).v = s.v := rfl
@[simp] theorem setPc_pc (t : Nat) : (s.setPc t).pc = wrap12 t := rfl
@[simp] theorem setPc_i (t : Nat) : (s.setPc t).i = s.i := rfl
@[simp] theorem setPc_stk (t : Nat) : (s.setPc t).stk = s.stk := rfl
@[simp] theorem setPc_sp (t : Nat) : (s.setPc t).sp = s.sp := rfl
@[simp] theorem setPc_dt (t : Nat) : (s.setPc t).dt = s.dt := rfl
@[simp] theorem setPc_st (t : Nat) : (s.setPc t).st = s.st := rfl
@[simp] theorem setPc_mem (t : Nat) : (s.setPc t).mem = s.mem := rfl
@[simp] theorem setPc_fb (t : Nat) : (s.setPc t).fb = s.fb := rfl
@[simp] theorem setPc_prev (t : Nat) : (s.setPc t).prev = s.prev := rfl
@[simp] theorem setPc_mode (t : Nat) : (s.setPc t).mode = s.mode := rfl
@[simp] theorem setPc_errKind (t : Nat) : (s.setPc t).errKind = s.errKind := rfl
@[simp] theorem setPc_errPc (t : Nat) : (s.setPc t).errPc = s.errPc := rfl
@[simp] theorem setPc_errOpcode (t : Nat) : (s.setPc t).errOpcode = s.errOpcode := rfl
@[simp] theorem setPc_keys (t : Nat) : (s.setPc t).keys = s.keys := rfl
@[simp] theorem setPc_random (t : Nat) : (s.setPc t).random = s.random := rfl
@[simp] theorem setPc_draws (t : Nat) : (s.setPc t).draws = s.draws := rfl
@[simp] theorem setPc_schedule (t : Nat) : (s.setPc t).schedule = s.schedule := rfl
@[simp] theorem setPc_params (t : Nat) : (s.setPc t).params = s.params := rfl
@[simp] theorem setPc_reg (t : Nat) (k : RegNum) : (s.setPc t).reg k = s.reg k := rfl
@[simp] theorem setPc_readByte (t : Nat) (a' : Nat) : (s.setPc t).readByte a' = s.readByte a' := rfl
@[simp] theorem setPc_dataAddress (t : Nat) (k : Nat) : (s.setPc t).dataAddress k = s.dataAddress k := rfl

/-! ### advance -/

@[simp] theorem advance_v : s.advance.v = s.v := rfl
@[simp] theorem advance_pc : s.advance.pc = wrap12 (s.pc.toNat + 2) := rfl
@[simp] theorem advance_i : s.advance.i = s.i := rfl
@[simp] theorem advance_stk : s.advance.stk = s.stk := rfl
@[simp] theorem advance_sp : s.advance.sp = s.sp := rfl
@[simp] theorem advance_dt : s.advance.dt = s.dt := rfl
@[simp] theorem advance_st : s.advance.st = s.st := rfl
@[simp] theorem advance_mem : s.advance.mem = s.mem := rfl
@[simp] theorem advance_fb : s.advance.fb = s.fb := rfl
@[simp] theorem advance_prev : s.advance.prev = s.prev := rfl
@[simp] theorem advance_mode : s.advance.mode = s.mode := rfl
@[simp] theorem advance_errKind : s.advance.errKind = s.errKind := rfl
@[simp] theorem advance_errPc : s.advance.errPc = s.errPc := rfl
@[simp] theorem advance_errOpcode : s.advance.errOpcode = s.errOpcode := rfl
@[simp] theorem advance_keys : s.advance.keys = s.keys := rfl
@[simp] theorem advance_random : s.advance.random = s.random := rfl
@[simp] theorem advance_draws : s.advance.draws = s.draws := rfl
@[simp] theorem advance_schedule : s.advance.schedule = s.schedule := rfl
@[simp] theorem advance_params : s.advance.params = s.params := rfl
@[simp] theorem advance_reg (k : RegNum) : s.advance.reg k = s.reg k := rfl
@[simp] theorem advance_readByte (a' : Nat) : s.advance.readByte a' = s.readByte a' := rfl
@[simp] theorem advance_dataAddress (k : Nat) : s.advance.dataAddress k = s.dataAddress k := rfl

/-! ### skipIf -/

@[simp] theorem skipIf_v (c : Bool) : (s.skipIf c).v = s.v := rfl
@[simp] theorem skipIf_pc (c : Bool) : (s.skipIf c).pc = wrap12 (s.pc.toNat + if c then 4 else 2) := rfl
@[simp] theorem skipIf_i (c : Bool) : (s.skipIf c).i = s.i := rfl
@[simp] theorem skipIf_stk (c : Bool) : (s.skipIf c).stk = s.stk := rfl
@[simp] theorem skipIf_sp (c : Bool) : (s.skipIf c).sp = s.sp := rfl
@[simp] theorem skipIf_dt (c : Bool) : (s.skipIf c).dt = s.dt := rfl
@[simp] theorem skipIf_st (c : Bool) : (s.skipIf c).st = s.st := rfl
@[simp] theorem skipIf_mem (c : Bool) : (s.skipIf c).mem = s.mem := rfl
@[simp] theorem skipIf_fb (c : Bool) : (s.skipIf c).fb = s.fb := rfl
@[simp] theorem skipIf_prev (c : Bool) : (s.skipIf c).prev = s.prev := rfl
@[simp] theorem skipIf_mode (c : Bool) : (s.skipIf c).mode = s.mode := rfl
@[simp] theorem skipIf_errKind (c : Bool) : (s.skipIf c).errKind = s.errKind := rfl
@[simp] theorem skipIf_errPc (c : Bool) : (s.skipIf c).errPc = s.errPc := rfl
@[simp] theorem skipIf_errOpcode (c : Bool) : (s.skipIf c).errOpcode = s.errOpcode := rfl
@[simp] theorem skipIf_keys (c : Bool) : (s.skipIf c).keys = s.keys := rfl
@[simp] theorem skipIf_random (c : Bool) : (s.skipIf c).random = s.random := rfl
@[simp] theorem skipIf_draws (c : Bool) : (s.skipIf c).draws = s.draws := rfl
@[simp] theorem skipIf_schedule (c : Bool) : (s.skipIf c).schedule = s.schedule := rfl
@[simp] theorem skipIf_params (c : Bool) : (s.skipIf c).params = s.params := rfl
@[simp] theorem skipIf_reg (c : Bool) (k : RegNum) : (s.skipIf c).reg k = s.reg k := rfl
@[simp] theorem skipIf_readByte (c : Bool) (a' : Nat) : (s.skipIf c).readByte a' = s.readByte a' := rfl
@[simp] theorem skipIf_dataAddress (c : Bool) (k : Nat) : (s.skipIf c).dataAddress k = s.dataAddress k := rfl

/-! ### setI -/

@[simp] theorem setI_v (t : Nat) : (s.setI t).v = s.v := rfl
@[simp] theorem setI_pc (t : Nat) : (s.setI t).pc = s.pc := rfl
@[simp] theorem setI_i (t : Nat) : (s.setI t).i = wrap12 t := rfl
@[simp] theorem setI_stk (t : Nat) : (s.setI t).stk = s.stk := rfl
@[simp] theorem setI_sp (t : Nat) : (s.setI t).sp = s.sp := rfl
@[simp] theorem setI_dt (t : Nat) : (s.setI t).dt = s.dt := rfl
@[simp] theorem setI_st (t : Nat) : (s.setI t).st = s.st := rfl
@[simp] theorem setI_mem (t : Nat) : (s.setI t).mem = s.mem := rfl
@[simp] theorem setI_fb (t : Nat) : (s.setI t).fb = s.fb := rfl
@[simp] theorem setI_prev (t : Nat) : (s.setI t).prev = s.prev := rfl
@[simp] theorem setI_mode (t : Nat) : (s.setI t).mode = s.mode := rfl
@[simp] theorem setI_errKind (t : Nat) : (s.setI t).errKind = s.errKind := rfl
@[simp] theorem setI_errPc (t : Nat) : (s.setI t).errPc = s.errPc := rfl
@[simp] theorem setI_errOpcode (t : Nat) : (s.setI t).errOpcode = s.errOpcode := rfl
@[simp] theorem setI_keys (t : Nat) : (s.setI t).keys = s.keys := rfl
@[simp] theorem setI_random (t : Nat) : (s.setI t).random = s.random := rfl
@[simp] theorem setI_draws (t : Nat) : (s.setI t).draws = s.draws := rfl
@[simp] theorem setI_schedule (t : Nat) : (s.setI t).schedule = s.schedule := rfl
@[simp] theorem setI_params (t : Nat) : (s.setI t).params = s.params := rfl
@[simp] theorem setI_reg (t : Nat) (k : RegNum) : (s.setI t).reg k = s.reg k := rfl
@[simp] theorem setI_readByte (t : Nat) (a' : Nat) : (s.setI t).readByte a' = s.readByte a' := rfl

/-! ### setDt -/

@[simp] theorem setDt_v (b : Byte) : (s.setDt b).v = s.v := rfl
@[simp] theorem setDt_pc (b : Byte) : (s.setDt b).pc = s.pc := rfl
@[simp] theorem setDt_i (b : Byte) : (s.setDt b).i = s.i := rfl
@[simp] theorem setDt_stk (b : Byte) : (s.setDt b).stk = s.stk := rfl
@[simp] theorem setDt_sp (b : Byte) : (s.setDt b).sp = s.sp := rfl
@[simp] theorem setDt_dt (b : Byte) : (s.setDt b).dt = b := rfl
@[simp] theorem setDt_st (b : Byte) : (s.setDt b).st = s.st := rfl
@[simp] theorem setDt_mem (b : Byte) : (s.setDt b).mem = s.mem := rfl
@[simp] theorem setDt_fb (b : Byte) : (s.setDt b).fb = s.fb := rfl
@[simp] theorem setDt_prev (b : Byte) : (s.setDt b).prev = s.prev := rfl
@[simp] theorem setDt_mode (b : Byte) : (s.setDt b).mode = s.mode := rfl
@[simp] theorem setDt_errKind (b : Byte) : (s.setDt b).errKind = s.errKind := rfl
@[simp] theorem setDt_errPc (b : Byte) : (s.setDt b).errPc = s.errPc := rfl
@[simp] theorem setDt_errOpcode (b : Byte) : (s.setDt b).errOpcode = s.errOpcode := rfl
@[simp] theorem setDt_keys (b : Byte) : (s.setDt b).keys = s.keys := rfl
@[simp] theorem setDt_random (b : Byte) : (s.setDt b).random = s.random := rfl
@[simp] theorem setDt_draws (b : Byte) : (s.setDt b).draws = s.draws := rfl
@[simp] theorem setDt_schedule (b : Byte) : (s.setDt b).schedule = s.schedule := rfl
@[simp] theorem setDt_params (b : Byte) : (s.setDt b).params = s.params := rfl
@[simp] theorem setDt_reg (b : Byte) (k : RegNum) : (s.setDt b).reg k = s.reg k := rfl
@[simp] theorem setDt_readByte (b : Byte) (a' : Nat) : (s.setDt b).readByte a' = s.readByte a' := rfl
@[simp] theorem setDt_dataAddress (b : Byte) (k : Nat) : (s.setDt b).dataAddress k = s.dataAddress k := rfl

/-! ### setSt -/

@[simp] theorem setSt_v (b : Byte) : (s.setSt b).v = s.v := rfl
@[simp] theorem setSt_pc (b : Byte) : (s.setSt b).pc = s.pc := rfl
@[simp] theorem setSt_i (b : Byte) : (s.setSt b).i = s.i := rfl
@[simp] theorem setSt_stk (b : Byte) : (s.setSt b).stk = s.stk := rfl
@[simp] theorem setSt_sp (b : Byte) : (s.setSt b).sp = s.sp := rfl
@[simp] theorem setSt_dt (b : Byte) : (s.setSt b).dt = s.dt := rfl
@[simp] theorem setSt_st (b : Byte) : (s.setSt b).st = b := rfl
@[simp] theorem setSt_mem (b : Byte) : (s.setSt b).mem = s.mem := rfl
@[simp] theorem setSt_fb (b : Byte) : (s.setSt b).fb = s.fb := rfl
@[simp] theorem setSt_prev (b : Byte) : (s.setSt b).prev = s.prev := rfl
@[simp] theorem setSt_mode (b : Byte) : (s.setSt b).mode = s.mode := rfl
@[simp] theorem setSt_errKind (b : Byte) : (s.setSt b).errKind = s.errKind := rfl
@[simp] theorem setSt_errPc (b : Byte) : (s.setSt b).errPc = s.errPc := rfl
@[simp] theorem setSt_errOpcode (b : Byte) : (s.setSt b).errOpcode = s.errOpcode := rfl
@[simp] theorem setSt_keys (b : Byte) : (s.setSt b).keys = s.keys := rfl
@[simp] theorem setSt_random (b : Byte) : (s.setSt b).random = s.random := rfl
@[simp] theorem setSt_draws (b : Byte) : (s.setSt b).draws = s.draws := rfl
@[simp] theorem setSt_schedule (b : Byte) : (s.setSt b).schedule = s.schedule := rfl
@[simp] theorem setSt_params (b : Byte) : (s.setSt b).params = s.params := rfl
@[simp] theorem setSt_reg (b : Byte) (k : RegNum) : (s.setSt b).reg k = s.reg k := rfl
@[simp] theorem setSt_readByte (b : Byte) (a' : Nat) : (s.setSt b).readByte a' = s.readByte a' := rfl
@[simp] theorem setSt_dataAddress (b : Byte) (k : Nat) : (s.setSt b).dataAddress k = s.dataAddress k := rfl

/-! ### setFb -/

@[simp] theorem setFb_v (f : Frame) : (s.setFb f).v = s.v := rfl
@[simp] theorem setFb_pc (f : Frame) : (s.setFb f).pc = s.pc := rfl
@[simp] theorem setFb_i (f : Frame) : (s.setFb f).i = s.i := rfl
@[simp] theorem setFb_stk (f : Frame) : (s.setFb f).stk = s.stk := rfl
@[simp] theorem setFb_sp (f : Frame) : (s.setFb f).sp = s.sp := rfl
@[simp] theorem setFb_dt (f : Frame) : (s.setFb f).dt = s.dt := rfl
@[simp] theorem setFb_st (f : Frame) : (s.setFb f).st = s.st := rfl
@[simp] theorem setFb_mem (f : Frame) : (s.setFb f).mem = s.mem := rfl
@[simp] theorem setFb_fb (f : Frame) : (s.setFb f).fb = f := rfl
@[simp] theorem setFb_prev (f : Frame) : (s.setFb f).prev = s.prev := rfl
@[simp] theorem setFb_mode (f : Frame) : (s.setFb f).mode = s.mode := rfl
@[simp] theorem setFb_errKind (f : Frame) : (s.setFb f).errKind = s.errKind := rfl
@[simp] theorem setFb_errPc (f : Frame) : (s.setFb f).errPc = s.errPc := rfl
@[simp] theorem setFb_errOpcode (f : Frame) : (s.setFb f).errOpcode = s.errOpcode := rfl
@[simp] theorem setFb_keys (f : Frame) : (s.setFb f).keys = s.keys := rfl
@[simp] theorem setFb_random (f : Frame) : (s.setFb f).random = s.random := rfl
@[simp] theorem setFb_draws (f : Frame) : (s.setFb f).draws = s.draws := rfl
@[simp] theorem setFb_schedule (f : Frame) : (s.setFb f).schedule = s.schedule := rfl
@[simp] theorem setFb_params (f : Frame) : (s.setFb f).params = s.params := rfl
@[simp] theorem setFb_reg (f : Frame) (k : RegNum) : (s.setFb f).reg k = s.reg k := rfl
@[simp] theorem setFb_readByte (f : Frame) (a' : Nat) : (s.setFb f).readByte a' = s.readByte a' := rfl
@[simp] theorem setFb_dataAddress (f : Frame) (k : Nat) : (s.setFb f).dataAddress k = s.dataAddress k := rfl

/-! ### setMode -/

@[simp] theorem setMode_v (m : Mode) : (s.setMode m).v = s.v := rfl
@[simp] theorem setMode_pc (m : Mode) : (s.setMode m).pc = s.pc := rfl
@[simp] theorem setMode_i (m : Mode) : (s.setMode m).i = s.i := rfl
@[simp] theorem setMode_stk (m : Mode) : (s.setMode m).stk = s.stk := rfl
@[simp] theorem setMode_sp (m : Mode) : (s.setMode m).sp = s.sp := rfl
@[simp] theorem setMode_dt (m : Mode) : (s.setMode m).dt = s.dt := rfl
@[simp] theorem setMode_st (m : Mode) : (s.setMode m).st = s.st := rfl
@[simp] theorem setMode_mem (m : Mode) : (s.setMode m).mem = s.mem := rfl
@[simp] theorem setMode_fb (m : Mode) : (s.setMode m).fb = s.fb := rfl
@[simp] theorem setMode_prev (m : Mode) : (s.setMode m).prev = s.prev := rfl
@[simp] theorem setMode_mode (m : Mode) : (s.setMode m).mode = m := rfl
@[simp] theorem setMode_errKind (m : Mode) : (s.setMode m).errKind = s.errKind := rfl
@[simp] theorem setMode_errPc (m : Mode) : (s.setMode m).errPc = s.errPc := rfl
@[simp] theorem setMode_errOpcode (m : Mode) : (s.setMode m).errOpcode = s.errOpcode := rfl
@[simp] theorem setMode_keys (m : Mode) : (s.setMode m).keys = s.keys := rfl
@[simp] theorem setMode_random (m : Mode) : (s.setMode m).random = s.random := rfl
@[simp] theorem setMode_draws (m : Mode) : (s.setMode m).draws = s.draws := rfl
@[simp] theorem setMode_schedule (m : Mode) : (s.setMode m).schedule = s.schedule := rfl
@[simp] theorem setMode_params (m : Mode) : (s.setMode m).params = s.params := rfl
@[simp] theorem setMode_reg (m : Mode) (k : RegNum) : (s.setMode m).reg k = s.reg k := rfl
@[simp] theorem setMode_readByte (m : Mode) (a' : Nat) : (s.setMode m).readByte a' = s.readByte a' := rfl
@[simp] theorem setMode_dataAddress (m : Mode) (k : Nat) : (s.setMode m).dataAddress k = s.dataAddress k := rfl

/-! ### latchKeys -/

@[simp] theorem latchKeys_v : s.latchKeys.v = s.v := rfl
@[simp] theorem latchKeys_pc : s.latchKeys.pc = s.pc := rfl
@[simp] theorem latchKeys_i : s.latchKeys.i = s.i := rfl
@[simp] theorem latchKeys_stk : s.latchKeys.stk = s.stk := rfl
@[simp] theorem latchKeys_sp : s.latchKeys.sp = s.sp := rfl
@[simp] theorem latchKeys_dt : s.latchKeys.dt = s.dt := rfl
@[simp] theorem latchKeys_st : s.latchKeys.st = s.st := rfl
@[simp] theorem latchKeys_mem : s.latchKeys.mem = s.mem := rfl
@[simp] theorem latchKeys_fb : s.latchKeys.fb = s.fb := rfl
@[simp] theorem latchKeys_prev : s.latchKeys.prev = s.keys := rfl
@[simp] theorem latchKeys_mode : s.latchKeys.mode = s.mode := rfl
@[simp] theorem latchKeys_errKind : s.latchKeys.errKind = s.errKind := rfl
@[simp] theorem latchKeys_errPc : s.latchKeys.errPc = s.errPc := rfl
@[simp] theorem latchKeys_errOpcode : s.latchKeys.errOpcode = s.errOpcode := rfl
@[simp] theorem latchKeys_keys : s.latchKeys.keys = s.keys := rfl
@[simp] theorem latchKeys_random : s.latchKeys.random = s.random := rfl
@[simp] theorem latchKeys_draws : s.latchKeys.draws = s.draws := rfl
@[simp] theorem latchKeys_schedule : s.latchKeys.schedule = s.schedule := rfl
@[simp] theorem latchKeys_params : s.latchKeys.params = s.params := rfl
@[simp] theorem latchKeys_reg (k : RegNum) : s.latchKeys.reg k = s.reg k := rfl
@[simp] theorem latchKeys_readByte (a' : Nat) : s.latchKeys.readByte a' = s.readByte a' := rfl
@[simp] theorem latchKeys_dataAddress (k : Nat) : s.latchKeys.dataAddress k = s.dataAddress k := rfl

/-! ### push -/

@[simp] theorem push_v (w : Word) (h : s.sp.val < 16) : (s.push w h).v = s.v := rfl
@[simp] theorem push_pc (w : Word) (h : s.sp.val < 16) : (s.push w h).pc = s.pc := rfl
@[simp] theorem push_i (w : Word) (h : s.sp.val < 16) : (s.push w h).i = s.i := rfl
@[simp] theorem push_stk (w : Word) (h : s.sp.val < 16) : (s.push w h).stk = s.stk.set s.sp.val w := rfl
@[simp] theorem push_sp (w : Word) (h : s.sp.val < 16) : (s.push w h).sp = ⟨s.sp.val + 1, by omega⟩ := rfl
@[simp] theorem push_dt (w : Word) (h : s.sp.val < 16) : (s.push w h).dt = s.dt := rfl
@[simp] theorem push_st (w : Word) (h : s.sp.val < 16) : (s.push w h).st = s.st := rfl
@[simp] theorem push_mem (w : Word) (h : s.sp.val < 16) : (s.push w h).mem = s.mem := rfl
@[simp] theorem push_fb (w : Word) (h : s.sp.val < 16) : (s.push w h).fb = s.fb := rfl
@[simp] theorem push_prev (w : Word) (h : s.sp.val < 16) : (s.push w h).prev = s.prev := rfl
@[simp] theorem push_mode (w : Word) (h : s.sp.val < 16) : (s.push w h).mode = s.mode := rfl
@[simp] theorem push_errKind (w : Word) (h : s.sp.val < 16) : (s.push w h).errKind = s.errKind := rfl
@[simp] theorem push_errPc (w : Word) (h : s.sp.val < 16) : (s.push w h).errPc = s.errPc := rfl
@[simp] theorem push_errOpcode (w : Word) (h : s.sp.val < 16) : (s.push w h).errOpcode = s.errOpcode := rfl
@[simp] theorem push_keys (w : Word) (h : s.sp.val < 16) : (s.push w h).keys = s.keys := rfl
@[simp] theorem push_random (w : Word) (h : s.sp.val < 16) : (s.push w h).random = s.random := rfl
@[simp] theorem push_draws (w : Word) (h : s.sp.val < 16) : (s.push w h).draws = s.draws := rfl
@[simp] theorem push_schedule (w : Word) (h : s.sp.val < 16) : (s.push w h).schedule = s.schedule := rfl
@[simp] theorem push_params (w : Word) (h : s.sp.val < 16) : (s.push w h).params = s.params := rfl
@[simp] theorem push_reg (w : Word) (h : s.sp.val < 16) (k : RegNum) : (s.push w h).reg k = s.reg k := rfl
@[simp] theorem push_readByte (w : Word) (h : s.sp.val < 16) (a' : Nat) : (s.push w h).readByte a' = s.readByte a' := rfl
@[simp] theorem push_dataAddress (w : Word) (h : s.sp.val < 16) (k : Nat) : (s.push w h).dataAddress k = s.dataAddress k := rfl

/-! ### pop -/

@[simp] theorem pop_v : s.pop.v = s.v := rfl
@[simp] theorem pop_pc : s.pop.pc = s.pc := rfl
@[simp] theorem pop_i : s.pop.i = s.i := rfl
@[simp] theorem pop_stk : s.pop.stk = s.stk := rfl
@[simp] theorem pop_sp : s.pop.sp = ⟨s.sp.val - 1, by omega⟩ := rfl
@[simp] theorem pop_dt : s.pop.dt = s.dt := rfl
@[simp] theorem pop_st : s.pop.st = s.st := rfl
@[simp] theorem pop_mem : s.pop.mem = s.mem := rfl
@[simp] theorem pop_fb : s.pop.fb = s.fb := rfl
@[simp] theorem pop_prev : s.pop.prev = s.prev := rfl
@[simp] theorem pop_mode : s.pop.mode = s.mode := rfl
@[simp] theorem pop_errKind : s.pop.errKind = s.errKind := rfl
@[simp] theorem pop_errPc : s.pop.errPc = s.errPc := rfl
@[simp] theorem pop_errOpcode : s.pop.errOpcode = s.errOpcode := rfl
@[simp] theorem pop_keys : s.pop.keys = s.keys := rfl
@[simp] theorem pop_random : s.pop.random = s.random := rfl
@[simp] theorem pop_draws : s.pop.draws = s.draws := rfl
@[simp] theorem pop_schedule : s.pop.schedule = s.schedule := rfl
@[simp] theorem pop_params : s.pop.params = s.params := rfl
@[simp] theorem pop_reg (k : RegNum) : s.pop.reg k = s.reg k := rfl
@[simp] theorem pop_readByte (a' : Nat) : s.pop.readByte a' = s.readByte a' := rfl
@[simp] theorem pop_dataAddress (k : Nat) : s.pop.dataAddress k = s.dataAddress k := rfl

/-! ### raise -/

@[simp] theorem raise_v (e : ErrorKind) (w : Word) : (s.raise e w).v = s.v := rfl
@[simp] theorem raise_pc (e : ErrorKind) (w : Word) : (s.raise e w).pc = s.pc := rfl
@[simp] theorem raise_i (e : ErrorKind) (w : Word) : (s.raise e w).i = s.i := rfl
@[simp] theorem raise_stk (e : ErrorKind) (w : Word) : (s.raise e w).stk = s.stk := rfl
@[simp] theorem raise_sp (e : ErrorKind) (w : Word) : (s.raise e w).sp = s.sp := rfl
@[simp] theorem raise_dt (e : ErrorKind) (w : Word) : (s.raise e w).dt = s.dt := rfl
@[simp] theorem raise_st (e : ErrorKind) (w : Word) : (s.raise e w).st = s.st := rfl
@[simp] theorem raise_mem (e : ErrorKind) (w : Word) : (s.raise e w).mem = s.mem := rfl
@[simp] theorem raise_fb (e : ErrorKind) (w : Word) : (s.raise e w).fb = s.fb := rfl
@[simp] theorem raise_prev (e : ErrorKind) (w : Word) : (s.raise e w).prev = s.prev := rfl
@[simp] theorem raise_mode (e : ErrorKind) (w : Word) : (s.raise e w).mode = .halted := rfl
@[simp] theorem raise_errKind (e : ErrorKind) (w : Word) : (s.raise e w).errKind = e := rfl
@[simp] theorem raise_errPc (e : ErrorKind) (w : Word) : (s.raise e w).errPc = s.pc := rfl
@[simp] theorem raise_errOpcode (e : ErrorKind) (w : Word) : (s.raise e w).errOpcode = w := rfl
@[simp] theorem raise_keys (e : ErrorKind) (w : Word) : (s.raise e w).keys = s.keys := rfl
@[simp] theorem raise_random (e : ErrorKind) (w : Word) : (s.raise e w).random = s.random := rfl
@[simp] theorem raise_draws (e : ErrorKind) (w : Word) : (s.raise e w).draws = s.draws := rfl
@[simp] theorem raise_schedule (e : ErrorKind) (w : Word) : (s.raise e w).schedule = s.schedule := rfl
@[simp] theorem raise_params (e : ErrorKind) (w : Word) : (s.raise e w).params = s.params := rfl
@[simp] theorem raise_reg (e : ErrorKind) (w : Word) (k : RegNum) : (s.raise e w).reg k = s.reg k := rfl
@[simp] theorem raise_readByte (e : ErrorKind) (w : Word) (a' : Nat) : (s.raise e w).readByte a' = s.readByte a' := rfl
@[simp] theorem raise_dataAddress (e : ErrorKind) (w : Word) (k : Nat) : (s.raise e w).dataAddress k = s.dataAddress k := rfl

/-! ### timerTick -/

@[simp] theorem timerTick_v : s.timerTick.v = s.v := rfl
@[simp] theorem timerTick_pc : s.timerTick.pc = s.pc := rfl
@[simp] theorem timerTick_i : s.timerTick.i = s.i := rfl
@[simp] theorem timerTick_stk : s.timerTick.stk = s.stk := rfl
@[simp] theorem timerTick_sp : s.timerTick.sp = s.sp := rfl
@[simp] theorem timerTick_dt : s.timerTick.dt = countDown s.dt := rfl
@[simp] theorem timerTick_st : s.timerTick.st = countDown s.st := rfl
@[simp] theorem timerTick_mem : s.timerTick.mem = s.mem := rfl
@[simp] theorem timerTick_fb : s.timerTick.fb = s.fb := rfl
@[simp] theorem timerTick_prev : s.timerTick.prev = s.prev := rfl
@[simp] theorem timerTick_mode : s.timerTick.mode = s.mode := rfl
@[simp] theorem timerTick_errKind : s.timerTick.errKind = s.errKind := rfl
@[simp] theorem timerTick_errPc : s.timerTick.errPc = s.errPc := rfl
@[simp] theorem timerTick_errOpcode : s.timerTick.errOpcode = s.errOpcode := rfl
@[simp] theorem timerTick_keys : s.timerTick.keys = s.keys := rfl
@[simp] theorem timerTick_random : s.timerTick.random = s.random := rfl
@[simp] theorem timerTick_draws : s.timerTick.draws = s.draws := rfl
@[simp] theorem timerTick_schedule : s.timerTick.schedule = s.schedule := rfl
@[simp] theorem timerTick_params : s.timerTick.params = s.params := rfl
@[simp] theorem timerTick_reg (k : RegNum) : s.timerTick.reg k = s.reg k := rfl
@[simp] theorem timerTick_readByte (a' : Nat) : s.timerTick.readByte a' = s.readByte a' := rfl
@[simp] theorem timerTick_dataAddress (k : Nat) : s.timerTick.dataAddress k = s.dataAddress k := rfl

/-! ### consumeRandom -/

@[simp] theorem consumeRandom_v : s.consumeRandom.v = s.v := rfl
@[simp] theorem consumeRandom_pc : s.consumeRandom.pc = s.pc := rfl
@[simp] theorem consumeRandom_i : s.consumeRandom.i = s.i := rfl
@[simp] theorem consumeRandom_stk : s.consumeRandom.stk = s.stk := rfl
@[simp] theorem consumeRandom_sp : s.consumeRandom.sp = s.sp := rfl
@[simp] theorem consumeRandom_dt : s.consumeRandom.dt = s.dt := rfl
@[simp] theorem consumeRandom_st : s.consumeRandom.st = s.st := rfl
@[simp] theorem consumeRandom_mem : s.consumeRandom.mem = s.mem := rfl
@[simp] theorem consumeRandom_fb : s.consumeRandom.fb = s.fb := rfl
@[simp] theorem consumeRandom_prev : s.consumeRandom.prev = s.prev := rfl
@[simp] theorem consumeRandom_mode : s.consumeRandom.mode = s.mode := rfl
@[simp] theorem consumeRandom_errKind : s.consumeRandom.errKind = s.errKind := rfl
@[simp] theorem consumeRandom_errPc : s.consumeRandom.errPc = s.errPc := rfl
@[simp] theorem consumeRandom_errOpcode : s.consumeRandom.errOpcode = s.errOpcode := rfl
@[simp] theorem consumeRandom_keys : s.consumeRandom.keys = s.keys := rfl
@[simp] theorem consumeRandom_random : s.consumeRandom.random = s.random.tail := rfl
@[simp] theorem consumeRandom_draws : s.consumeRandom.draws = s.draws + 1 := rfl
@[simp] theorem consumeRandom_schedule : s.consumeRandom.schedule = s.schedule := rfl
@[simp] theorem consumeRandom_params : s.consumeRandom.params = s.params := rfl
@[simp] theorem consumeRandom_reg (k : RegNum) : s.consumeRandom.reg k = s.reg k := rfl
@[simp] theorem consumeRandom_readByte (a' : Nat) : s.consumeRandom.readByte a' = s.readByte a' := rfl
@[simp] theorem consumeRandom_dataAddress (k : Nat) : s.consumeRandom.dataAddress k = s.dataAddress k := rfl

/-! ### afterMove -/

@[simp] theorem afterMove_v : s.afterMove.v = s.v := rfl
@[simp] theorem afterMove_pc : s.afterMove.pc = s.pc := rfl
@[simp] theorem afterMove_i : s.afterMove.i = s.i := rfl
@[simp] theorem afterMove_stk : s.afterMove.stk = s.stk := rfl
@[simp] theorem afterMove_sp : s.afterMove.sp = s.sp := rfl
@[simp] theorem afterMove_dt : s.afterMove.dt = s.dt := rfl
@[simp] theorem afterMove_st : s.afterMove.st = s.st := rfl
@[simp] theorem afterMove_mem : s.afterMove.mem = s.mem := rfl
@[simp] theorem afterMove_fb : s.afterMove.fb = s.fb := rfl
@[simp] theorem afterMove_prev : s.afterMove.prev = s.prev := rfl
@[simp] theorem afterMove_mode : s.afterMove.mode = s.mode := rfl
@[simp] theorem afterMove_errKind : s.afterMove.errKind = s.errKind := rfl
@[simp] theorem afterMove_errPc : s.afterMove.errPc = s.errPc := rfl
@[simp] theorem afterMove_errOpcode : s.afterMove.errOpcode = s.errOpcode := rfl
@[simp] theorem afterMove_keys : s.afterMove.keys = s.keys := rfl
@[simp] theorem afterMove_random : s.afterMove.random = s.random := rfl
@[simp] theorem afterMove_draws : s.afterMove.draws = s.draws := rfl
@[simp] theorem afterMove_schedule : s.afterMove.schedule = s.schedule.tail := rfl
@[simp] theorem afterMove_params : s.afterMove.params = s.params := rfl
@[simp] theorem afterMove_reg (k : RegNum) : s.afterMove.reg k = s.reg k := rfl
@[simp] theorem afterMove_readByte (a' : Nat) : s.afterMove.readByte a' = s.readByte a' := rfl
@[simp] theorem afterMove_dataAddress (k : Nat) : s.afterMove.dataAddress k = s.dataAddress k := rfl

/-! ### writeByte -/

@[simp] theorem writeByte_v (a : Nat) (b : Byte) : (s.writeByte a b).v = s.v := rfl
@[simp] theorem writeByte_pc (a : Nat) (b : Byte) : (s.writeByte a b).pc = s.pc := rfl
@[simp] theorem writeByte_i (a : Nat) (b : Byte) : (s.writeByte a b).i = s.i := rfl
@[simp] theorem writeByte_stk (a : Nat) (b : Byte) : (s.writeByte a b).stk = s.stk := rfl
@[simp] theorem writeByte_sp (a : Nat) (b : Byte) : (s.writeByte a b).sp = s.sp := rfl
@[simp] theorem writeByte_dt (a : Nat) (b : Byte) : (s.writeByte a b).dt = s.dt := rfl
@[simp] theorem writeByte_st (a : Nat) (b : Byte) : (s.writeByte a b).st = s.st := rfl
@[simp] theorem writeByte_mem (a : Nat) (b : Byte) : (s.writeByte a b).mem = Memory.write s.params s.mem (a % Config.memSize) b := rfl
@[simp] theorem writeByte_fb (a : Nat) (b : Byte) : (s.writeByte a b).fb = s.fb := rfl
@[simp] theorem writeByte_prev (a : Nat) (b : Byte) : (s.writeByte a b).prev = s.prev := rfl
@[simp] theorem writeByte_mode (a : Nat) (b : Byte) : (s.writeByte a b).mode = s.mode := rfl
@[simp] theorem writeByte_errKind (a : Nat) (b : Byte) : (s.writeByte a b).errKind = s.errKind := rfl
@[simp] theorem writeByte_errPc (a : Nat) (b : Byte) : (s.writeByte a b).errPc = s.errPc := rfl
@[simp] theorem writeByte_errOpcode (a : Nat) (b : Byte) : (s.writeByte a b).errOpcode = s.errOpcode := rfl
@[simp] theorem writeByte_keys (a : Nat) (b : Byte) : (s.writeByte a b).keys = s.keys := rfl
@[simp] theorem writeByte_random (a : Nat) (b : Byte) : (s.writeByte a b).random = s.random := rfl
@[simp] theorem writeByte_draws (a : Nat) (b : Byte) : (s.writeByte a b).draws = s.draws := rfl
@[simp] theorem writeByte_schedule (a : Nat) (b : Byte) : (s.writeByte a b).schedule = s.schedule := rfl
@[simp] theorem writeByte_params (a : Nat) (b : Byte) : (s.writeByte a b).params = s.params := rfl
@[simp] theorem writeByte_reg (a : Nat) (b : Byte) (k : RegNum) : (s.writeByte a b).reg k = s.reg k := rfl
@[simp] theorem writeByte_dataAddress (a : Nat) (b : Byte) (k : Nat) : (s.writeByte a b).dataAddress k = s.dataAddress k := rfl

/-! ### Reading a register that was written -/

@[simp] theorem setReg_reg (x : RegNum) (b : Byte) (k : RegNum) :
    (s.setReg x b).reg k = if k = x then b else s.reg k := by
  simp only [State.reg, State.setReg, Vector.getElem_set, Fin.ext_iff, eq_comm]

@[simp] theorem setRegAndFlag_reg (x : RegNum) (r f : Byte) (k : RegNum) :
    (s.setRegAndFlag x r f).reg k = if k = regF then f else if k = x then r else s.reg k := by
  simp only [State.setRegAndFlag, setReg_reg]

/-- Two register files are equal when every register is. -/
theorem v_ext {s t : State} (h : ∀ k, t.reg k = s.reg k) : t.v = s.v := by
  refine Vector.ext fun k hk => ?_
  exact h ⟨k, hk⟩

end Sys2Proof.Machine
end

