-- ==== Sys2Proof/Laws/Ops.lean ====
section
/-! SUPPORT. What each shared operation computes, said once: addresses and pc, memory, register dump and load, arithmetic,
flags, the key search, reset. -/

namespace Sys2Proof.Machine

open Sys2Proof.Config

variable (s : State)

/-! ### Addresses, pc, I -/

@[simp] theorem wrap12_toNat (t : Nat) : (wrap12 t).toNat = t % 0x1000 := by
  simp only [wrap12, memSize, BitVec.toNat_ofNat]
  omega

theorem wrap12_lt (t : Nat) : (wrap12 t).toNat < 0x1000 := by
  rw [wrap12_toNat]
  exact Nat.mod_lt _ (by decide)

@[simp] theorem readByte_mod (a : Nat) : s.readByte (a % 0x1000) = s.readByte a := by
  simp [State.readByte]

theorem dataAddress_eq (k : Nat) : s.dataAddress k = (s.i.toNat + k) % 0x1000 := rfl

@[simp] theorem dataAddress_mod (k : Nat) : s.dataAddress k % 0x1000 = s.dataAddress k := by
  simp [State.dataAddress]

/-- Two offsets of the one addressing mode name different bytes while both are below 0x1000 (spec/42_index_memory.md R126). -/
theorem dataAddress_inj {j k : Nat} (hj : j < 0x1000) (hk : k < 0x1000) (h : s.dataAddress j = s.dataAddress k) : j = k := by
  simp only [State.dataAddress, memSize] at h
  omega

theorem writeByte_readByte (a : Nat) (b : Byte) (c : Nat) :
    (s.writeByte a b).readByte c = if c % 0x1000 = a % 0x1000 then b else s.readByte c := by
  simp only [State.readByte, State.writeByte, read_write]

theorem readByte_congr {s t : State} (hm : t.mem = s.mem) (hp : t.params = s.params) (a : Nat) :
    t.readByte a = s.readByte a := by
  simp only [State.readByte, hm, hp]

/-! ### Register dump and load -/

@[simp] theorem mem_regsUpTo (x k : RegNum) : k ∈ regsUpTo x ↔ k ≤ x := by simp [regsUpTo]

theorem regsUpTo_nodup (x : RegNum) : (regsUpTo x).Nodup := (List.nodup_finRange 16).filter _

/-- A dump changes memory only. -/
theorem storeRegs_eq (ks : List RegNum) : s.storeRegs ks = { s with mem := (s.storeRegs ks).mem } := by
  induction ks generalizing s with
  | nil => rfl
  | cons k ks ih => exact ih (s.writeByte (s.dataAddress k.val) (s.reg k))

/-- A dump keeps memory canonical. -/
theorem storeRegs_wf (ks : List RegNum) (h : Memory.wf s.params s.mem) : Memory.wf s.params (s.storeRegs ks).mem := by
  induction ks generalizing s with
  | nil => exact h
  | cons k ks ih => exact ih (s.writeByte (s.dataAddress k.val) (s.reg k)) (write_wf h (Nat.mod_lt _ (by decide)))

/-- What a dump leaves at an address. -/
theorem storeRegs_readByte (ks : List RegNum) (hn : ks.Nodup) (c : Nat) :
    (∀ k ∈ ks, c % 0x1000 = s.dataAddress k.val → (s.storeRegs ks).readByte c = s.reg k) ∧
    ((∀ k ∈ ks, c % 0x1000 ≠ s.dataAddress k.val) → (s.storeRegs ks).readByte c = s.readByte c) := by
  induction ks generalizing s with
  | nil => simp [State.storeRegs]
  | cons k ks ih =>
    obtain ⟨hk, hks⟩ := List.nodup_cons.mp hn
    have step := ih (s.writeByte (s.dataAddress k.val) (s.reg k)) hks
    simp only [writeByte_dataAddress, writeByte_reg, writeByte_readByte, dataAddress_mod] at step
    refine ⟨fun j hj hc => ?_, fun hc => ?_⟩
    · by_cases hjk : j = k
      · subst hjk
        refine (step.2 fun l hl hcl => hk ?_).trans (if_pos hc)
        have := dataAddress_inj s (by omega) (by omega) (hc.symm.trans hcl)
        rwa [Fin.ext this]
      · exact step.1 j ((List.mem_cons.mp hj).resolve_left hjk) hc
    · exact (step.2 fun l hl => hc l (by simp [hl])).trans (if_neg (hc k (by simp)))

/-- A load changes V only. -/
theorem loadRegs_eq (ks : List RegNum) : s.loadRegs ks = { s with v := (s.loadRegs ks).v } := by
  induction ks generalizing s with
  | nil => rfl
  | cons k ks ih => exact ih (s.setReg k (s.readByte (s.dataAddress k.val)))

/-- What a load leaves in a register. -/
theorem loadRegs_reg (ks : List RegNum) (k : RegNum) :
    (s.loadRegs ks).reg k = if k ∈ ks then s.readByte (s.dataAddress k.val) else s.reg k := by
  induction ks generalizing s with
  | nil => simp [State.loadRegs]
  | cons j ks ih =>
    simp only [State.loadRegs, ih, setReg_readByte, setReg_dataAddress, setReg_reg, List.mem_cons]
    by_cases hk : k ∈ ks <;> by_cases hj : k = j <;> simp [hk, hj]

/-! ### Arithmetic and flags -/

@[simp] theorem addBytes_toNat (a b : Byte) : (addBytes a b).toNat = (a.toNat + b.toNat) % 256 := by
  simp [addBytes]

@[simp] theorem subBytes_toNat (a b : Byte) : ((subBytes a b).toNat : Int) = ((a.toNat : Int) - b.toNat) % 256 := by
  simp only [subBytes, BitVec.toNat_ofInt]
  omega

@[simp] theorem shiftLeft_toNat (a : Byte) : (shiftLeft a).toNat = 2 * a.toNat % 256 := by
  simp [shiftLeft]

@[simp] theorem hundreds_toNat (b : Byte) : (hundreds b).toNat = b.toNat / 100 := by
  simp only [hundreds, BitVec.toNat_ofNat]
  omega

@[simp] theorem tens_toNat (b : Byte) : (tens b).toNat = b.toNat / 10 % 10 := by
  simp only [tens, BitVec.toNat_ofNat]
  omega

@[simp] theorem units_toNat (b : Byte) : (units b).toNat = b.toNat % 10 := by
  simp only [units, BitVec.toNat_ofNat]
  omega

theorem flagByte_toNat (c : Bool) : (flagByte c).toNat = if c = true then 1 else 0 := by cases c <;> rfl

theorem shiftedOutRight_toNat : ∀ a : Byte, (flagByte (shiftedOutRight a)).toNat = a.toNat % 2 := by decide

theorem shiftedOutLeft_toNat : ∀ a : Byte, (flagByte (shiftedOutLeft a)).toNat = a.toNat / 128 := by decide

theorem shiftRight_zero_toNat : ∀ a : Byte, (shiftRight .zero a).toNat = a.toNat / 2 := by decide

theorem shiftRight_sign_toNat : ∀ a : Byte,
    (shiftRight .sign a).toNat = a.toNat / 2 + if 128 ≤ a.toNat then 128 else 0 := by decide

/-! ### Timers and keys -/

@[simp] theorem countDown_toNat (t : Byte) : (countDown t).toNat = t.toNat - 1 := by
  simp only [countDown]
  split
  · subst_vars; rfl
  · rename_i h
    have : t.toNat ≠ 0 := fun h0 => h (BitVec.eq_of_toNat_eq h0)
    have := t.isLt
    rw [BitVec.toNat_sub, show (1 : Byte).toNat = 1 from rfl]
    omega

theorem keyFresh_iff (k : KeyNum) :
    s.keyFresh k = true ↔ s.keys.getLsbD k.val = true ∧ s.prev.getLsbD k.val = false := by
  simp [State.keyFresh]

/-- The search finds the least fresh key (spec/44_keypad_timers.md R156). -/
theorem firstFreshKey_eq_some {j : KeyNum} (hj : s.keyFresh j = true) (hl : ∀ k, k < j → s.keyFresh k = false) :
    s.firstFreshKey = some j := by
  refine List.find?_eq_some_iff_append.mpr ⟨hj, (List.finRange 16).take j.val, (List.finRange 16).drop (j.val + 1), ?_, ?_⟩
  · have h : (List.finRange 16)[j.val]'(by simp) = j := by simp
    conv_lhs => rw [← List.take_append_drop j.val (List.finRange 16)]
    rw [List.drop_eq_getElem_cons (by simp), h]
  · intro k hk
    obtain ⟨n, hn, rfl⟩ := List.mem_iff_getElem.mp hk
    simp only [List.length_take, List.length_finRange] at hn
    simp only [List.getElem_take, List.getElem_finRange, Bool.not_eq_true']
    exact hl _ (by simp [Fin.lt_def]; omega)

theorem firstFreshKey_eq_none : s.firstFreshKey = none ↔ ∀ k, s.keyFresh k = false := by
  simp [State.firstFreshKey, List.find?_eq_none]

/-- What the waiting cycle does (R156): with no fresh key only PREV changes; otherwise the target gets the number of a key, pc
moves on and the engine runs again. -/
theorem awaitKeyCycle_cases (t : RegNum) :
    (s.firstFreshKey = none ∧ s.awaitKeyCycle t = { s with prev := s.keys }) ∨
    ∃ j, s.firstFreshKey = some j ∧
      s.awaitKeyCycle t = { s with
        v := s.v.set t.val (BitVec.ofNat 8 j.val), pc := wrap12 (s.pc.toNat + 2), prev := s.keys, mode := .running } := by
  unfold State.awaitKeyCycle
  cases h : s.firstFreshKey with
  | none => exact .inl ⟨rfl, rfl⟩
  | some j => exact .inr ⟨j, rfl, rfl⟩

/-! ### Reset -/

theorem resetWith_accepted {rom : List Byte} (h : rom.length ≤ 0xE00) :
    s.resetWith rom = { State.reset with
      mem := Memory.load s.params [] 0x200 rom, keys := s.keys, random := s.random, draws := s.draws,
      schedule := s.schedule, params := s.params } := if_pos h

theorem resetWith_rejected {rom : List Byte} (h : 0xE00 < rom.length) :
    s.resetWith rom = { State.reset with
      mode := .halted, errKind := .romTooLarge, keys := s.keys, random := s.random, draws := s.draws,
      schedule := s.schedule, params := s.params } := if_neg (by simp only [romMax]; omega)

/-- Outside the font table an unlisted address reads as zero (spec/10_state.md R22). -/
theorem unlistedByte_eq_zero {p : Params} {a : Nat} (h : a < p.fontBase.val ∨ p.fontBase.val + 80 ≤ a) :
    unlistedByte p a = 0 := dif_neg (by omega)

/-- In the font table an unlisted address reads as its font byte (R23). -/
theorem unlistedByte_font {p : Params} {j : Nat} (h : j < 80) :
    unlistedByte p (p.fontBase.val + j) = p.fontTable[j] := by
  rw [unlistedByte, dif_pos (by omega)]
  congr 1
  omega

end Sys2Proof.Machine
end

