-- ==== Sys2Proof/Laws/Display.lean ====
section
/-! SUPPORT. Pixels after a flip, the cells of a sprite, and what drawing a sprite does to every pixel and to the collision
flag (spec/43_display.md R136 to R139). -/

namespace Sys2Proof.Machine

open Sys2Proof.Config

/-! ### Pixels -/

@[simp] theorem pixel_clear (y x : Nat) : Frame.pixel Frame.clear y x = false := by
  simp [Frame.pixel, Frame.clear]

theorem pixel_flip (f : Frame) {y x : Nat} (hy : y < 32) (hx : x < 64) (py px : Nat) :
    (Frame.flip f y x).pixel py px = Bool.xor (f.pixel py px) (decide ((py, px) = (y, x))) := by
  simp only [Frame.pixel, Frame.flip, hy, dite_true]
  by_cases hp : py < 32
  · simp only [hp, dite_true, Vector.getElem_set]
    by_cases h : y = py
    · subst h
      simp only [if_true, BitVec.getLsbD_xor, BitVec.getLsbD_twoPow, hx, decide_true, Bool.true_and, Prod.mk.injEq, true_and,
        eq_comm]
    · have h' : ¬ py = y := fun e => h e.symm
      simp [h, h']
  · have h' : ¬ py = y := by omega
    simp [hp, h']

/-- Two framebuffers with the same pixels are equal data. -/
theorem fb_ext {f g : Frame} (h : ∀ y x, f.pixel y x = g.pixel y x) : f = g := by
  refine Vector.ext fun y hy => BitVec.eq_of_getLsbD_eq fun x _ => ?_
  have := h y x
  simpa only [Frame.pixel, hy, dite_true] using this

/-! ### Cells of a sprite -/

theorem mem_spriteRow {y x0 : Nat} {b : Byte} {c : Nat × Nat} :
    c ∈ spriteRow y x0 b ↔ ∃ k, k < 8 ∧ b.getLsbD (7 - k) = true ∧ c = (y, x0 + k) := by
  simp only [spriteRow, List.mem_map, List.mem_filter, List.mem_range, and_assoc, eq_comm (a := c)]

theorem mem_spriteCells {y0 x0 : Nat} {bs : List Byte} {c : Nat × Nat} :
    c ∈ spriteCells y0 x0 bs ↔
      ∃ r k b, bs[r]? = some b ∧ k < 8 ∧ b.getLsbD (7 - k) = true ∧ c = (y0 + r, x0 + k) := by
  induction bs generalizing y0 with
  | nil => simp [spriteCells]
  | cons b bs ih =>
    simp only [spriteCells, List.mem_append, mem_spriteRow, ih]
    constructor
    · rintro (⟨k, hk, hb, rfl⟩ | ⟨r, k, d, hd, hk, hb, rfl⟩)
      · exact ⟨0, k, b, rfl, hk, hb, rfl⟩
      · exact ⟨r + 1, k, d, by simpa using hd, hk, hb, by simp only [Prod.mk.injEq, and_true]; omega⟩
    · rintro ⟨r, k, d, hd, hk, hb, rfl⟩
      cases r with
      | zero => simp only [List.getElem?_cons_zero, Option.some.injEq] at hd; subst hd; exact .inl ⟨k, hk, hb, rfl⟩
      | succ r =>
        exact .inr ⟨r, k, d, by simpa using hd, hk, hb, by simp only [Prod.mk.injEq, and_true]; omega⟩

theorem spriteCells_nodup (y0 x0 : Nat) (bs : List Byte) : (spriteCells y0 x0 bs).Nodup := by
  induction bs generalizing y0 with
  | nil => exact List.nodup_nil
  | cons b bs ih =>
    refine List.nodup_append.mpr ⟨?_, ih (y0 + 1), ?_⟩
    · refine (List.nodup_range.filter _).map fun j k h => ?_
      simpa using h
    · rintro c hc d hd rfl
      obtain ⟨k, -, -, rfl⟩ := mem_spriteRow.mp hc
      obtain ⟨r, j, e, -, -, -, h⟩ := mem_spriteCells.mp hd
      simp only [Prod.mk.injEq] at h
      omega

/-- `Place` sends different cells of a sprite of at most 32 rows and 8 columns to different pixels (R136). -/
theorem place_inj {e : SpriteEdge} {y0 x0 y x y' x' : Nat} {p : Nat × Nat}
    (hy : y0 ≤ y ∧ y < y0 + 32) (hy' : y0 ≤ y' ∧ y' < y0 + 32) (hx : x0 ≤ x ∧ x < x0 + 8) (hx' : x0 ≤ x' ∧ x' < x0 + 8)
    (h : place e y x = some p) (h' : place e y' x' = some p) : (y, x) = (y', x') := by
  cases e with
  | wrap =>
    simp only [place, Option.some.injEq, fbHeight, fbWidth] at h h'
    subst h
    simp only [Prod.mk.injEq] at h' ⊢
    omega
  | clip =>
    simp only [place] at h h'
    split at h <;> simp only [Option.some.injEq, reduceCtorEq] at h
    split at h' <;> simp only [Option.some.injEq, reduceCtorEq] at h'
    exact h.trans h'.symm

theorem place_in_grid {e : SpriteEdge} {y x py px : Nat} (h : place e y x = some (py, px)) : py < 32 ∧ px < 64 := by
  cases e with
  | wrap =>
    simp only [place, Option.some.injEq, Prod.mk.injEq, fbHeight, fbWidth] at h
    omega
  | clip =>
    simp only [place, fbHeight, fbWidth] at h
    split at h <;> simp only [Option.some.injEq, reduceCtorEq, Prod.mk.injEq] at h
    omega

/-- Where a cell lands, edge policy by edge policy (R137). -/
theorem place_eq_some {e : SpriteEdge} {y x py px : Nat} :
    place e y x = some (py, px) ↔
      match e with
      | .wrap => py = y % 32 ∧ px = x % 64
      | .clip => py = y ∧ px = x ∧ py < 32 ∧ px < 64 := by
  cases e with
  | wrap => simp only [place, Option.some.injEq, Prod.mk.injEq, eq_comm]
  | clip =>
    by_cases h : x < fbWidth ∧ y < fbHeight
    · simp only [place, if_pos h, Option.some.injEq, Prod.mk.injEq]
      constructor
      · rintro ⟨rfl, rfl⟩; exact ⟨rfl, rfl, h.2, h.1⟩
      · rintro ⟨rfl, rfl, -⟩; exact ⟨rfl, rfl⟩
    · simp only [place, if_neg h, reduceCtorEq, false_iff]
      rintro ⟨rfl, rfl, h1, h2⟩
      exact h ⟨h2, h1⟩

/-- The pixels that the visible cells land on. -/
def landed (e : SpriteEdge) (cells : List (Nat × Nat)) : List (Nat × Nat) := cells.filterMap fun c => place e c.1 c.2

theorem landed_nodup (e : SpriteEdge) (y0 x0 : Nat) {bs : List Byte} (hb : bs.length ≤ 32) :
    (landed e (spriteCells y0 x0 bs)).Nodup := by
  refine List.pairwise_filterMap.mpr ((spriteCells_nodup y0 x0 bs).imp_of_mem fun {c d} hc hd hne p hp q hq hpq => ?_)
  subst hpq
  obtain ⟨r, k, b, hr, hk, -, rfl⟩ := mem_spriteCells.mp hc
  obtain ⟨r', k', b', hr', hk', -, rfl⟩ := mem_spriteCells.mp hd
  have hr := (List.getElem?_eq_some_iff.mp hr).1
  have hr' := (List.getElem?_eq_some_iff.mp hr').1
  exact hne (place_inj (y0 := y0) (x0 := x0) (by omega) (by omega) (by omega) (by omega) hp hq)

/-! ### Drawing -/

/-- The loop of R136 over cells that land on different pixels: each pixel landed on is flipped, and the flag tells whether one of
them was on. -/
theorem foldl_plot (e : SpriteEdge) (cells : List (Nat × Nat)) (acc : Frame × Bool) (hn : (landed e cells).Nodup) :
    (∀ py px, (cells.foldl (plot e) acc).1.pixel py px =
      Bool.xor (acc.1.pixel py px) (decide ((py, px) ∈ landed e cells))) ∧
    (cells.foldl (plot e) acc).2 = (acc.2 || (landed e cells).any fun p => acc.1.pixel p.1 p.2) := by
  induction cells generalizing acc with
  | nil => simp [landed]
  | cons c cells ih =>
    cases hp : place e c.1 c.2 with
    | none =>
      have hl : landed e (c :: cells) = landed e cells := by simp [landed, hp]
      rw [hl] at hn ⊢
      have hc : plot e acc c = acc := by simp [plot, hp]
      simp only [List.foldl_cons, hc]
      exact ih acc hn
    | some p =>
      obtain ⟨y, x⟩ := p
      have hl : landed e (c :: cells) = (y, x) :: landed e cells := by simp [landed, hp]
      rw [hl] at hn ⊢
      obtain ⟨hnew, hn⟩ := List.nodup_cons.mp hn
      obtain ⟨hy, hx⟩ := place_in_grid hp
      have hc : plot e acc c = (Frame.flip acc.1 y x, acc.2 || Frame.pixel acc.1 y x) := by simp [plot, hp]
      simp only [List.foldl_cons, hc]
      obtain ⟨ih1, ih2⟩ := ih (Frame.flip acc.1 y x, acc.2 || Frame.pixel acc.1 y x) hn
      refine ⟨fun py px => ?_, ?_⟩
      · rw [ih1, pixel_flip acc.1 hy hx]
        by_cases h : (py, px) = (y, x)
        · rw [h]; simp [hnew]
        · simp [h]
      · rw [ih2, List.any_cons, ← Bool.or_assoc]
        congr 1
        rw [Bool.eq_iff_iff, List.any_eq_true, List.any_eq_true]
        refine exists_congr fun q => and_congr_right fun hq => ?_
        have hne : ¬ (q.1, q.2) = (y, x) := fun h => hnew (h ▸ hq)
        rw [pixel_flip acc.1 hy hx, decide_eq_false hne, Bool.xor_false]

/-- What a sprite of at most 32 bytes does (R136, R139). -/
theorem blit_spec (e : SpriteEdge) (f : Frame) (y0 x0 : Nat) {bs : List Byte} (hb : bs.length ≤ 32) :
    (∀ py px, (blit e f (spriteCells y0 x0 bs)).1.pixel py px =
      Bool.xor (f.pixel py px) (decide ((py, px) ∈ landed e (spriteCells y0 x0 bs)))) ∧
    (blit e f (spriteCells y0 x0 bs)).2 = (landed e (spriteCells y0 x0 bs)).any fun p => f.pixel p.1 p.2 := by
  have h := foldl_plot e (spriteCells y0 x0 bs) (f, false) (landed_nodup e y0 x0 hb)
  simpa only [blit, Bool.false_or] using h

theorem spriteBytes_getElem? (s : State) (n r : Nat) :
    (s.spriteBytes n)[r]? = if r < n then some (s.readByte (s.i.toNat + r)) else none := by
  by_cases h : r < n
  · simp [State.spriteBytes, State.dataAddress, h]
  · simp only [State.spriteBytes, h, if_false, List.getElem?_map]
    rw [List.getElem?_eq_none (by simpa using h)]
    rfl

/-- The pixels a sprite covers are those its cells land on. -/
theorem spriteCovers_iff (s : State) (x y : RegNum) (n py px : Nat) :
    s.spriteCovers x y n py px ↔
      (py, px) ∈ landed s.params.spriteEdge (spriteCells (startRow (s.reg y)) (startColumn (s.reg x)) (s.spriteBytes n)) := by
  simp only [landed, List.mem_filterMap, mem_spriteCells, spriteBytes_getElem?, place_eq_some, State.spriteCovers]
  constructor
  · rintro ⟨r, c, hr, hc, hb, he⟩
    exact ⟨(startRow (s.reg y) + r, startColumn (s.reg x) + c), ⟨r, c, _, if_pos hr, hc, hb, rfl⟩, he⟩
  · rintro ⟨d, ⟨r, c, b, hr, hc, hb, rfl⟩, he⟩
    by_cases h : r < n
    · rw [if_pos h, Option.some.injEq] at hr
      subst hr
      exact ⟨r, c, h, hc, hb, he⟩
    · rw [if_neg h] at hr
      exact absurd hr (by simp)

/-- What drawing a sprite does to each pixel, and when it reports a collision (R136, R139). -/
theorem drawn_spec (s : State) (x y : RegNum) {n : Nat} (hn : n < 16) :
    (∀ py px, s.spriteCovers x y n py px → (s.drawn x y n).1.pixel py px = !s.fb.pixel py px) ∧
    (∀ py px, ¬ s.spriteCovers x y n py px → (s.drawn x y n).1.pixel py px = s.fb.pixel py px) ∧
    ((s.drawn x y n).2 = true ↔ ∃ py px, s.spriteCovers x y n py px ∧ s.fb.pixel py px = true) := by
  have hl : (s.spriteBytes n).length ≤ 32 := by
    simp only [State.spriteBytes, List.length_map, List.length_range]
    omega
  obtain ⟨h1, h2⟩ := blit_spec s.params.spriteEdge s.fb (startRow (s.reg y)) (startColumn (s.reg x)) hl
  refine ⟨fun py px h => ?_, fun py px h => ?_, ?_⟩
  · rw [State.drawn, h1, decide_eq_true ((spriteCovers_iff s x y n py px).mp h), Bool.xor_true]
  · rw [State.drawn, h1, decide_eq_false fun hc => h ((spriteCovers_iff s x y n py px).mpr hc), Bool.xor_false]
  · rw [State.drawn, h2, List.any_eq_true]
    simp only [spriteCovers_iff, Prod.exists]

end Sys2Proof.Machine
end

