-- ==== Sys2Proof/Laws/PerInstr.lean ====
section
/-! SUPPORT. Per instruction: its word selects its own row of the opcode map (spec/30_encoding.md R65). -/

namespace Sys2Proof.Laws

open Sys2Proof

theorem and_mask_ADDR (op : BitVec 4) (nnn : BitVec 12) :
    wordADDR op nnn &&& 0xF000 = op ++ 0#12 := by
  have h : (0xF000 : Word) = (0xF : BitVec 4) ++ 0#12 := rfl
  rw [h, wordADDR, BitVec.and_append, BitVec.and_zero, show (0xF : BitVec 4) = BitVec.allOnes 4 from rfl, BitVec.and_allOnes]

theorem and_mask_REGIMM (op : BitVec 4) (x : RegNum) (nn : Byte) :
    wordREGIMM op x nn &&& 0xF000 = op ++ 0#12 := and_mask_ADDR op (regBits x ++ nn)

theorem and_mask_DRAW (op : BitVec 4) (x y : RegNum) (n : BitVec 4) :
    wordREGREG op x y n &&& 0xF000 = op ++ 0#12 := and_mask_ADDR op (regBits x ++ (regBits y ++ n))

theorem and_mask_REGREG (op : BitVec 4) (x y : RegNum) (n : BitVec 4) :
    wordREGREG op x y n &&& 0xF00F = op ++ (0#8 ++ n) := by
  have h : (0xF00F : Word) = (0xF : BitVec 4) ++ (0#4 ++ (0#4 ++ (0xF : BitVec 4))) := rfl
  have h0 : (0#4 ++ (0#4 ++ n) : BitVec 12) = 0#8 ++ n := by revert n; decide
  rw [h, wordREGREG, BitVec.and_append, BitVec.and_append, BitVec.and_append, BitVec.and_zero, BitVec.and_zero,
    show (0xF : BitVec 4) = BitVec.allOnes 4 from rfl, BitVec.and_allOnes, BitVec.and_allOnes, h0]

theorem and_mask_REG (op : BitVec 4) (x : RegNum) (minor : Byte) :
    wordREG op x minor &&& 0xF0FF = op ++ (0#4 ++ minor) := by
  have h : (0xF0FF : Word) = (0xF : BitVec 4) ++ (0#4 ++ (0xFF : BitVec 8)) := rfl
  rw [h, wordREG, BitVec.and_append, BitVec.and_append, BitVec.and_zero,
    show (0xF : BitVec 4) = BitVec.allOnes 4 from rfl, show (0xFF : BitVec 8) = BitVec.allOnes 8 from rfl,
    BitVec.and_allOnes, BitVec.and_allOnes]

/-- The word of `i` selects the row of `i`. -/
def EncodesItsRow.Statement (i : Instr) : Prop := encode i &&& (rowOf i).mask = (rowOf i).pattern

theorem EncodesItsRow.cls : EncodesItsRow.Statement .cls := rfl
theorem EncodesItsRow.ret : EncodesItsRow.Statement .ret := rfl
theorem EncodesItsRow.jp (nnn : BitVec 12) : EncodesItsRow.Statement (.jp nnn) := and_mask_ADDR _ nnn
theorem EncodesItsRow.call (nnn : BitVec 12) : EncodesItsRow.Statement (.call nnn) := and_mask_ADDR _ nnn
theorem EncodesItsRow.seImm (x : RegNum) (nn : Byte) : EncodesItsRow.Statement (.seImm x nn) := and_mask_REGIMM _ x nn
theorem EncodesItsRow.sneImm (x : RegNum) (nn : Byte) : EncodesItsRow.Statement (.sneImm x nn) := and_mask_REGIMM _ x nn
theorem EncodesItsRow.seReg (x y : RegNum) : EncodesItsRow.Statement (.seReg x y) := and_mask_REGREG _ x y _
theorem EncodesItsRow.ldImm (x : RegNum) (nn : Byte) : EncodesItsRow.Statement (.ldImm x nn) := and_mask_REGIMM _ x nn
theorem EncodesItsRow.addImm (x : RegNum) (nn : Byte) : EncodesItsRow.Statement (.addImm x nn) := and_mask_REGIMM _ x nn
theorem EncodesItsRow.ldReg (x y : RegNum) : EncodesItsRow.Statement (.ldReg x y) := and_mask_REGREG _ x y _
theorem EncodesItsRow.orReg (x y : RegNum) : EncodesItsRow.Statement (.orReg x y) := and_mask_REGREG _ x y _
theorem EncodesItsRow.andReg (x y : RegNum) : EncodesItsRow.Statement (.andReg x y) := and_mask_REGREG _ x y _
theorem EncodesItsRow.xorReg (x y : RegNum) : EncodesItsRow.Statement (.xorReg x y) := and_mask_REGREG _ x y _
theorem EncodesItsRow.addReg (x y : RegNum) : EncodesItsRow.Statement (.addReg x y) := and_mask_REGREG _ x y _
theorem EncodesItsRow.subReg (x y : RegNum) : EncodesItsRow.Statement (.subReg x y) := and_mask_REGREG _ x y _
theorem EncodesItsRow.shr (x y : RegNum) : EncodesItsRow.Statement (.shr x y) := and_mask_REGREG _ x y _
theorem EncodesItsRow.subnReg (x y : RegNum) : EncodesItsRow.Statement (.subnReg x y) := and_mask_REGREG _ x y _
theorem EncodesItsRow.shl (x y : RegNum) : EncodesItsRow.Statement (.shl x y) := and_mask_REGREG _ x y _
theorem EncodesItsRow.sneReg (x y : RegNum) : EncodesItsRow.Statement (.sneReg x y) := and_mask_REGREG _ x y _
theorem EncodesItsRow.ldI (nnn : BitVec 12) : EncodesItsRow.Statement (.ldI nnn) := and_mask_ADDR _ nnn
theorem EncodesItsRow.jpV0 (nnn : BitVec 12) : EncodesItsRow.Statement (.jpV0 nnn) := and_mask_ADDR _ nnn
theorem EncodesItsRow.rnd (x : RegNum) (nn : Byte) : EncodesItsRow.Statement (.rnd x nn) := and_mask_REGIMM _ x nn
theorem EncodesItsRow.drw (x y : RegNum) (n : Nat) : EncodesItsRow.Statement (.drw x y n) := and_mask_DRAW _ x y _
theorem EncodesItsRow.skp (x : RegNum) : EncodesItsRow.Statement (.skp x) := and_mask_REG _ x _
theorem EncodesItsRow.sknp (x : RegNum) : EncodesItsRow.Statement (.sknp x) := and_mask_REG _ x _
theorem EncodesItsRow.ldVxDT (x : RegNum) : EncodesItsRow.Statement (.ldVxDT x) := and_mask_REG _ x _
theorem EncodesItsRow.ldVxK (x : RegNum) : EncodesItsRow.Statement (.ldVxK x) := and_mask_REG _ x _
theorem EncodesItsRow.ldDT (x : RegNum) : EncodesItsRow.Statement (.ldDT x) := and_mask_REG _ x _
theorem EncodesItsRow.ldST (x : RegNum) : EncodesItsRow.Statement (.ldST x) := and_mask_REG _ x _
theorem EncodesItsRow.addI (x : RegNum) : EncodesItsRow.Statement (.addI x) := and_mask_REG _ x _
theorem EncodesItsRow.ldF (x : RegNum) : EncodesItsRow.Statement (.ldF x) := and_mask_REG _ x _
theorem EncodesItsRow.ldB (x : RegNum) : EncodesItsRow.Statement (.ldB x) := and_mask_REG _ x _
theorem EncodesItsRow.stRegs (x : RegNum) : EncodesItsRow.Statement (.stRegs x) := and_mask_REG _ x _
theorem EncodesItsRow.ldRegs (x : RegNum) : EncodesItsRow.Statement (.ldRegs x) := and_mask_REG _ x _

end Sys2Proof.Laws
end

