-- ==== Sys2Proof/Laws/OpcodeMap.lean ====
section
/-! SUPPORT. When a word selects a row of the opcode map, mask by mask (spec/30_encoding.md R65), and every row is disjoint from
every other. -/

namespace Sys2Proof

theorem word_eq_ADDR (w : Word) : w = wordADDR (fieldOP w) (fieldNNN w) := by
  apply BitVec.eq_of_toNat_eq; rw [wordADDR_toNat, fieldOP_toNat, fieldNNN_toNat]; omega

theorem word_eq_REGREG (w : Word) : w = wordREGREG (fieldOP w) (fieldX w) (fieldY w) (fieldN w) := by
  apply BitVec.eq_of_toNat_eq
  rw [wordREGREG_toNat, fieldOP_toNat, fieldX_val, fieldY_val, fieldN_toNat]
  have := w.isLt
  omega

theorem word_eq_REG (w : Word) : w = wordREG (fieldOP w) (fieldX w) (fieldNN w) := by
  apply BitVec.eq_of_toNat_eq
  rw [wordREG_toNat, fieldOP_toNat, fieldX_val, fieldNN_toNat]
  have := w.isLt
  omega

theorem eq_iff_toNat {w p : Word} : w = p ↔ w.toNat = p.toNat :=
  ⟨congrArg _, BitVec.eq_of_toNat_eq⟩

theorem selects_FFFF (w p : Word) : (OpcodeRow.mk 0xFFFF p).selects w = true ↔ w.toNat = p.toNat := by
  have h : (0xFFFF : Word) = BitVec.allOnes 16 := rfl
  simp only [OpcodeRow.selects, beq_iff_eq, h, BitVec.and_allOnes, eq_iff_toNat]

theorem selects_F000 (w p : Word) :
    (OpcodeRow.mk 0xF000 p).selects w = true ↔ w.toNat / 4096 * 4096 = p.toNat := by
  have h : (w &&& 0xF000).toNat = w.toNat / 4096 * 4096 := by
    rw [word_eq_ADDR w, Laws.and_mask_ADDR, append_toNat, ← word_eq_ADDR w, fieldOP_toNat]
    simp
  simp only [OpcodeRow.selects, beq_iff_eq, eq_iff_toNat, h]

theorem selects_F00F (w p : Word) :
    (OpcodeRow.mk 0xF00F p).selects w = true ↔ w.toNat / 4096 * 4096 + w.toNat % 16 = p.toNat := by
  have h : (w &&& 0xF00F).toNat = w.toNat / 4096 * 4096 + w.toNat % 16 := by
    rw [word_eq_REGREG w, Laws.and_mask_REGREG, append_toNat, append_toNat, ← word_eq_REGREG w, fieldOP_toNat, fieldN_toNat]
    simp
  simp only [OpcodeRow.selects, beq_iff_eq, eq_iff_toNat, h]

theorem selects_F0FF (w p : Word) :
    (OpcodeRow.mk 0xF0FF p).selects w = true ↔ w.toNat / 4096 * 4096 + w.toNat % 256 = p.toNat := by
  have h : (w &&& 0xF0FF).toNat = w.toNat / 4096 * 4096 + w.toNat % 256 := by
    rw [word_eq_REG w, Laws.and_mask_REG, append_toNat, append_toNat, ← word_eq_REG w, fieldOP_toNat, fieldNN_toNat]
    simp
  simp only [OpcodeRow.selects, beq_iff_eq, eq_iff_toNat, h]

/-- No two rows of the opcode map overlap (R65): where their masks meet, their patterns differ. -/
theorem opcodeRows_disjoint : ∀ r ∈ opcodeRows, ∀ q ∈ opcodeRows, r ≠ q →
    (r.mask &&& q.mask) &&& (r.pattern ^^^ q.pattern) ≠ 0 := by decide

/-- A word selects at most one row. -/
theorem selects_unique {r q : OpcodeRow} (hr : r ∈ opcodeRows) (hq : q ∈ opcodeRows) {w : Word}
    (h1 : r.selects w = true) (h2 : q.selects w = true) : r = q := by
  by_contra hne
  apply opcodeRows_disjoint r hr q hq hne
  simp only [OpcodeRow.selects, beq_iff_eq] at h1 h2
  rw [← h1, ← h2]
  apply BitVec.eq_of_getLsbD_eq
  intro k _
  simp only [BitVec.getLsbD_and, BitVec.getLsbD_xor]
  cases w.getLsbD k <;> cases r.mask.getLsbD k <;> cases q.mask.getLsbD k <;> simp

theorem rowOf_mem (i : Instr) : rowOf i ∈ opcodeRows := by
  cases i <;> simp only [rowOf] <;> decide

/-- Every instruction's word selects its own row, whichever instruction it is. -/
theorem encodesItsRow : ∀ i : Instr, Laws.EncodesItsRow.Statement i
  | .cls => Laws.EncodesItsRow.cls
  | .ret => Laws.EncodesItsRow.ret
  | .jp nnn => Laws.EncodesItsRow.jp nnn
  | .call nnn => Laws.EncodesItsRow.call nnn
  | .seImm x nn => Laws.EncodesItsRow.seImm x nn
  | .sneImm x nn => Laws.EncodesItsRow.sneImm x nn
  | .seReg x y => Laws.EncodesItsRow.seReg x y
  | .ldImm x nn => Laws.EncodesItsRow.ldImm x nn
  | .addImm x nn => Laws.EncodesItsRow.addImm x nn
  | .ldReg x y => Laws.EncodesItsRow.ldReg x y
  | .orReg x y => Laws.EncodesItsRow.orReg x y
  | .andReg x y => Laws.EncodesItsRow.andReg x y
  | .xorReg x y => Laws.EncodesItsRow.xorReg x y
  | .addReg x y => Laws.EncodesItsRow.addReg x y
  | .subReg x y => Laws.EncodesItsRow.subReg x y
  | .shr x y => Laws.EncodesItsRow.shr x y
  | .subnReg x y => Laws.EncodesItsRow.subnReg x y
  | .shl x y => Laws.EncodesItsRow.shl x y
  | .sneReg x y => Laws.EncodesItsRow.sneReg x y
  | .ldI nnn => Laws.EncodesItsRow.ldI nnn
  | .jpV0 nnn => Laws.EncodesItsRow.jpV0 nnn
  | .rnd x nn => Laws.EncodesItsRow.rnd x nn
  | .drw x y n => Laws.EncodesItsRow.drw x y n
  | .skp x => Laws.EncodesItsRow.skp x
  | .sknp x => Laws.EncodesItsRow.sknp x
  | .ldVxDT x => Laws.EncodesItsRow.ldVxDT x
  | .ldVxK x => Laws.EncodesItsRow.ldVxK x
  | .ldDT x => Laws.EncodesItsRow.ldDT x
  | .ldST x => Laws.EncodesItsRow.ldST x
  | .addI x => Laws.EncodesItsRow.addI x
  | .ldF x => Laws.EncodesItsRow.ldF x
  | .ldB x => Laws.EncodesItsRow.ldB x
  | .stRegs x => Laws.EncodesItsRow.stRegs x
  | .ldRegs x => Laws.EncodesItsRow.ldRegs x

theorem rowOf_selects (i : Instr) : (rowOf i).selects (encode i) = true := by
  have h : encode i &&& (rowOf i).mask = (rowOf i).pattern := encodesItsRow i
  simp only [OpcodeRow.selects, h, BEq.rfl]

end Sys2Proof
end

