-- ==== Sys2Proof/Laws/Step.lean ====
section
/-! SUPPORT. Everything a step can do (spec/50_cycle.md R166 to R173), said once. -/

namespace Sys2Proof.Machine

/-- A word is rejected only as an unknown opcode, by its own value (spec/30_encoding.md R67). -/
theorem decodeWord_error {w : Word} {r : Reject} (h : decodeWord w = .error r) : r = .unknownOpcode w := by
  simp only [decodeWord, decodeGroup0, decodeGroup5, decodeGroup8, decodeGroup9, decodeGroupE, decodeGroupF] at h
  repeat' split at h
  all_goals first | exact (Except.error.inj h).symm | exact absurd h (by simp)

/-- What CALL does: it pushes and jumps, or with a full stack halts (R82, R187). -/
theorem exec_call_cases {s t : State} {nnn : BitVec 12} (h : exec (.call nnn) s = .next t) :
    (∃ h : s.sp.val < 16, t = (s.push (wrap12 (s.pc.toNat + 2)) h).setPc nnn.toNat) ∨
    (s.sp = 16 ∧ t = s.raise .stackOverflow (encode (.call nnn))) := by
  by_cases hs : s.sp.val < 16
  · exact .inl ⟨hs, (Host.Outcome.next.inj ((dif_pos hs).symm.trans h)).symm⟩
  · exact .inr ⟨by omega, (Host.Outcome.next.inj ((dif_neg hs).symm.trans h)).symm⟩

/-- What RET does: it pops into pc, or with an empty stack halts (R80, R188). -/
theorem exec_ret_cases {s t : State} (h : exec .ret s = .next t) :
    (∃ h : 0 < s.sp.val, t = s.pop.setPc (s.stackTop h).toNat) ∨
    (s.sp = 0 ∧ t = s.raise .stackUnderflow (encode .ret)) := by
  by_cases hs : 0 < s.sp.val
  · exact .inl ⟨hs, (Host.Outcome.next.inj ((dif_pos hs).symm.trans h)).symm⟩
  · exact .inr ⟨by omega, (Host.Outcome.next.inj ((dif_neg hs).symm.trans h)).symm⟩

/-- One instruction cycle, by mode (R168, R171, R172). -/
theorem instructionCycle_cases {s t : State} (h : instructionCycle s = .next t) :
    (s.mode = .halted ∧ t = s) ∨
    (∃ x, s.mode = .awaitingKey x ∧ t = s.awaitKeyCycle x) ∨
    (s.mode = .running ∧ ∃ i, decodeWord s.fetchWord = .ok i ∧ exec i s = .next t) ∨
    (s.mode = .running ∧ decodeWord s.fetchWord = .error (.unknownOpcode s.fetchWord) ∧
      t = s.raise .unknownOpcode s.fetchWord) := by
  unfold instructionCycle at h
  split at h
  · rename_i hm
    split at h
    · rename_i i hi
      exact .inr (.inr (.inl ⟨hm, i, hi, h⟩))
    · rename_i r hr
      rw [decodeWord_error hr] at hr
      exact .inr (.inr (.inr ⟨hm, hr, (Host.Outcome.next.inj h).symm⟩))
  · rename_i x hm
    exact .inr (.inl ⟨x, hm, (Host.Outcome.next.inj h).symm⟩)
  · rename_i hm
    exact .inl ⟨hm, (Host.Outcome.next.inj h).symm⟩

/-- One step, by the host's move (R166). -/
theorem step_cases {s t : State} (h : step s = .next t) :
    (s.nextMove = .instructionTick ∧ instructionCycle s.afterMove = .next t) ∨
    (s.nextMove = .timerTick ∧ t = s.afterMove.timerTick) ∨
    (∃ ks, s.nextMove = .setKeys ks ∧ t = { s.afterMove with keys := ks }) ∨
    (∃ rom, s.nextMove = .reset rom ∧ t = s.afterMove.resetWith rom) := by
  unfold step at h
  cases hm : s.nextMove with
  | instructionTick => rw [hm] at h; exact .inl ⟨rfl, h⟩
  | timerTick => rw [hm] at h; exact .inr (.inl ⟨rfl, (Host.Outcome.next.inj h).symm⟩)
  | setKeys ks => rw [hm] at h; exact .inr (.inr (.inl ⟨ks, rfl, (Host.Outcome.next.inj h).symm⟩))
  | reset rom => rw [hm] at h; exact .inr (.inr (.inr ⟨rom, rfl, (Host.Outcome.next.inj h).symm⟩))

@[simp] theorem afterMove_fetchWord (s : State) : s.afterMove.fetchWord = s.fetchWord := rfl

/-- The word fetched, byte by byte (R169). -/
theorem fetchWord_eq (s : State) : s.fetchWord = s.readByte s.pc.toNat ++ s.readByte (s.pc.toNat + 1) := rfl

/-- What `withFetchWord` places is what the next cycle fetches. -/
theorem placeWord_fetchWord (s : State) (w : Word) : (s.placeWord w).fetchWord = w := by
  have hne : s.pc.toNat % 0x1000 ≠ (s.pc.toNat + 1) % 0x1000 := by omega
  have h1 : (s.placeWord w).readByte s.pc.toNat = (bytesOfWord w).1 := by
    refine (writeByte_readByte _ _ _ _).trans ?_
    rw [if_neg hne, writeByte_readByte, if_pos rfl]
  have h2 : (s.placeWord w).readByte (s.pc.toNat + 1) = (bytesOfWord w).2 :=
    (writeByte_readByte _ _ _ _).trans (if_pos rfl)
  have h := fetchWord_eq (s.placeWord w)
  rw [show (s.placeWord w).pc = s.pc from rfl, h1, h2] at h
  exact h.trans (wordOfBytes_bytesOfWord w)

/-- After `placeWord` the very next step is an instruction tick of a running engine. -/
theorem placeWord_nextMove (s : State) (w : Word) : (s.placeWord w).nextMove = .instructionTick := by
  simp only [State.nextMove, State.placeWord]
  cases s.schedule with
  | nil => rfl
  | cons m ms => cases m <;> rfl

end Sys2Proof.Machine
end

