-- ==== Sys2Proof/Tests/Slice0.lean ====
section
/-! SUPPORT. Tests. Expected values come from the encodings of spec/30_encoding.md R65 and the vectors of
spec/95_test_vectors.md (part 2), named by their ids; at the end, for each statement with hypotheses, a state and operands
that meet them. -/

namespace Sys2Proof.Tests

open Sys2Proof.Machine Sys2Proof.Config

/-! ## Well-formedness: the one check, refused and accepted (R61, R68) -/

theorem test_height_refused : (Instr.drw 0 1 16).wellFormed = false := by decide
theorem test_height_accepted : (Instr.drw 0 1 15).wellFormed = true ∧ (Instr.drw 0 1 0).wellFormed = true := by decide

/-! ## Decoding: words written bit by bit from R65 -/

theorem test_decode_control :
    decodeWord 0b0000_0000_1110_0000 = .ok .cls ∧
    decodeWord 0b0000_0000_1110_1110 = .ok .ret ∧
    decodeWord 0b0001_1010_1011_1100 = .ok (.jp 0xABC) ∧
    decodeWord 0b0010_1111_0000_0001 = .ok (.call 0xF01) ∧
    decodeWord 0b0011_1010_0000_0111 = .ok (.seImm 10 7) ∧
    decodeWord 0b0100_1010_1000_0001 = .ok (.sneImm 10 0x81) ∧
    decodeWord 0b0101_0001_0010_0000 = .ok (.seReg 1 2) ∧
    decodeWord 0b1001_0001_0010_0000 = .ok (.sneReg 1 2) ∧
    decodeWord 0b1011_0011_0000_0101 = .ok (.jpV0 0x305) := by decide

theorem test_decode_alu :
    decodeWord 0b0110_1111_1010_1011 = .ok (.ldImm 15 0xAB) ∧
    decodeWord 0b0111_1010_0000_0101 = .ok (.addImm 10 5) ∧
    decodeWord 0b1000_0001_0010_0000 = .ok (.ldReg 1 2) ∧
    decodeWord 0b1000_0001_0010_0001 = .ok (.orReg 1 2) ∧
    decodeWord 0b1000_0001_0010_0010 = .ok (.andReg 1 2) ∧
    decodeWord 0b1000_0001_0010_0011 = .ok (.xorReg 1 2) ∧
    decodeWord 0b1000_0001_0010_0100 = .ok (.addReg 1 2) ∧
    decodeWord 0b1000_0001_0010_0101 = .ok (.subReg 1 2) ∧
    decodeWord 0b1000_0001_0010_0110 = .ok (.shr 1 2) ∧
    decodeWord 0b1000_0001_0010_0111 = .ok (.subnReg 1 2) ∧
    decodeWord 0b1000_0001_0010_1110 = .ok (.shl 1 2) ∧
    decodeWord 0b1100_0011_0000_1111 = .ok (.rnd 3 0x0F) := by decide

theorem test_decode_index_display :
    decodeWord 0b1010_0001_0010_0011 = .ok (.ldI 0x123) ∧
    decodeWord 0b1101_0001_0010_1111 = .ok (.drw 1 2 15) ∧
    decodeWord 0b1111_0001_0001_1110 = .ok (.addI 1) ∧
    decodeWord 0b1111_0100_0010_1001 = .ok (.ldF 4) ∧
    decodeWord 0b1111_0101_0011_0011 = .ok (.ldB 5) ∧
    decodeWord 0b1111_0011_0101_0101 = .ok (.stRegs 3) ∧
    decodeWord 0b1111_1111_0110_0101 = .ok (.ldRegs 15) := by decide

theorem test_decode_keypad_timers :
    decodeWord 0b1110_0010_1001_1110 = .ok (.skp 2) ∧
    decodeWord 0b1110_0010_1010_0001 = .ok (.sknp 2) ∧
    decodeWord 0b1111_0110_0000_0111 = .ok (.ldVxDT 6) ∧
    decodeWord 0b1111_0011_0000_1010 = .ok (.ldVxK 3) ∧
    decodeWord 0b1111_0110_0001_0101 = .ok (.ldDT 6) ∧
    decodeWord 0b1111_0110_0001_1000 = .ok (.ldST 6) := by decide

/-- Vectors F22, F23, A35, A36, M18, M19 and one more of group 0, group 9 and group E. -/
theorem test_decode_unknown :
    decodeWord 0x0123 = .error (.unknownOpcode 0x0123) ∧ decodeWord 0x5121 = .error (.unknownOpcode 0x5121) ∧
    decodeWord 0x8128 = .error (.unknownOpcode 0x8128) ∧ decodeWord 0x812F = .error (.unknownOpcode 0x812F) ∧
    decodeWord 0xF000 = .error (.unknownOpcode 0xF000) ∧ decodeWord 0xF156 = .error (.unknownOpcode 0xF156) ∧
    decodeWord 0x00FF = .error (.unknownOpcode 0x00FF) ∧ decodeWord 0x9121 = .error (.unknownOpcode 0x9121) ∧
    decodeWord 0xE29F = .error (.unknownOpcode 0xE29F) := by decide

/-- The byte at the lower address is the high byte (R44, R60), and one byte alone is no instruction. -/
theorem test_decode_bytes :
    decode [0x6A, 0x02, 0x7A, 0x05] = .ok (.ldImm 0xA 2, [0x7A, 0x05]) ∧ decode [0x6A] = .error .truncated := by decide

theorem test_encode :
    encode (.subnReg 1 2) = 0x8127 ∧ encode (.drw 13 14 15) = 0xDDEF ∧ encode (.ldRegs 7) = 0xF765 ∧
    encode (.call 0xABC) = 0x2ABC := by decide

/-- No two rows of the opcode map select one word (R65). -/
theorem test_rows_disjoint :
    opcodeRows.Pairwise (fun a b => a.mask &&& b.mask &&& (a.pattern ^^^ b.pattern) ≠ 0) := by decide

/-! ## One step on a small state -/

/-- The reset state with a word placed at pc. -/
def placed (w : Nat) : State := State.reset.withFetchWord 16 w

/-- The reset state with pc at `a` and a word placed there. -/
def placedAt (a w : Nat) : State := (State.reset.setPc a).withFetchWord 16 w

/-- A next state with the property. -/
def gives (r : Result) (p : State → Bool) : Bool :=
  match r with
  | .next t => p t
  | .fault _ => false
  | .refused _ => false

/-- F1, F2. -/
theorem test_jp :
    gives (step (placed 0x1ABC)) (fun t => t.pc == 0xABC) = true ∧
    gives (step (placed 0x1200)) (fun t => t == placed 0x1200) = true := by decide

/-- F3. -/
theorem test_call :
    gives (step { placedAt 0x2F0 0x2400 with sp := 3 })
      (fun t => t.pc == 0x400 && t.sp == 4 && t.stk[3] == 0x02F2) = true := by decide

/-- F4, F5. -/
theorem test_call_edges :
    gives (step (placedAt 0xFFE 0x2400)) (fun t => t.stk[0] == 0x0000 && t.sp == 1 && t.pc == 0x400) = true ∧
    gives (step { placedAt 0x300 0x2ABC with sp := 16 })
      (fun t => t.mode == .halted && t.errKind.code == 2 && t.errPc == 0x300 && t.errOpcode == 0x2ABC && t.pc == 0x300 &&
        t.sp == 16) = true := by decide

/-- F6, F7. -/
theorem test_ret :
    gives (step ((((placedAt 0x400 0x00EE).push 0x0202 (by decide)).push 0x02F2 (by decide))))
      (fun t => t.sp == 1 && t.pc == 0x2F2) = true ∧
    gives (step (placedAt 0x400 0x00EE))
      (fun t => t.mode == .halted && t.errKind.code == 3 && t.errPc == 0x400 && t.errOpcode == 0x00EE && t.pc == 0x400) = true := by
  decide

/-- F8, F9. -/
theorem test_se_imm :
    gives (step ((placed 0x3A07).setReg 10 7)) (fun t => t.pc == 0x204) = true ∧
    gives (step ((placed 0x3A07).setReg 10 8)) (fun t => t.pc == 0x202) = true := by decide

/-- F10, F11. -/
theorem test_sne_imm :
    gives (step ((placed 0x4A07).setReg 10 8)) (fun t => t.pc == 0x204) = true ∧
    gives (step ((placed 0x4A07).setReg 10 7)) (fun t => t.pc == 0x202) = true := by decide

/-- F12, F13. -/
theorem test_se_reg :
    gives (step (((placed 0x5120).setReg 1 9).setReg 2 9)) (fun t => t.pc == 0x204) = true ∧
    gives (step (((placed 0x5120).setReg 1 9).setReg 2 8)) (fun t => t.pc == 0x202) = true := by decide

/-- F15, F16. -/
theorem test_sne_reg :
    gives (step (((placed 0x9120).setReg 1 9).setReg 2 8)) (fun t => t.pc == 0x204) = true ∧
    gives (step (((placed 0x9120).setReg 1 9).setReg 2 9)) (fun t => t.pc == 0x202) = true := by decide

/-- F18. -/
theorem test_jp_v0 : gives (step ((placed 0xBFFF).setReg 0 0xFF)) (fun t => t.pc == 0x0FE) = true := by decide

/-- F19, F25: a skip wraps, and a fetch wraps. -/
theorem test_pc_wraps :
    gives (step (placedAt 0xFFC 0x3000)) (fun t => t.pc == 0x000) = true ∧
    gives (step (placedAt 0xFFF 0x6B77)) (fun t => t.reg 11 == 0x77 && t.pc == 0x001) = true := by decide

/-- F22. -/
theorem test_unknown :
    gives (step (placed 0x0123))
      (fun t => t == { placed 0x0123 with mode := .halted, errKind := .unknownOpcode, errPc := 0x200, errOpcode := 0x0123 }) = true := by
  decide

/-- A1. -/
theorem test_ld_imm : gives (step (placed 0x6FAB)) (fun t => t.reg 15 == 0xAB && t.pc == 0x202) = true := by decide

/-- A3b, A4. -/
theorem test_add_imm :
    gives (step (((placed 0x7A01).setReg 10 0xFF).setReg 15 1)) (fun t => t.reg 10 == 0 && t.reg 15 == 1) = true ∧
    gives (step ((placed 0x7F02).setReg 15 0xFF)) (fun t => t.reg 15 == 1) = true := by decide

/-- A5. -/
theorem test_ld_reg : gives (step ((placed 0x8120).setReg 2 0x33)) (fun t => t.reg 1 == 0x33 && t.reg 2 == 0x33) = true := by decide

/-- A6, A7, A8. -/
theorem test_logic :
    gives (step ((((placed 0x8121).setReg 1 0xF0).setReg 2 0x0F).setReg 15 1)) (fun t => t.reg 1 == 0xFF && t.reg 15 == 1) = true ∧
    gives (step ((((placed 0x8122).setReg 1 0xF0).setReg 2 0x3C).setReg 15 1)) (fun t => t.reg 1 == 0x30 && t.reg 15 == 1) = true ∧
    gives (step ((((placed 0x8123).setReg 1 0xF0).setReg 2 0x3C).setReg 15 1)) (fun t => t.reg 1 == 0xCC && t.reg 15 == 1) = true := by
  decide

/-- A10, A15. -/
theorem test_add_reg :
    gives (step (((placed 0x8124).setReg 1 0xC8).setReg 2 0x64)) (fun t => t.reg 1 == 0x2C && t.reg 15 == 1) = true ∧
    gives (step (((placed 0x8F14).setReg 15 0xF0).setReg 1 0x20)) (fun t => t.reg 15 == 1) = true := by decide

/-- A19, A21. -/
theorem test_sub_reg :
    gives (step (((placed 0x8125).setReg 1 7).setReg 2 7)) (fun t => t.reg 1 == 0 && t.reg 15 == 1) = true ∧
    gives (step (((placed 0x8F15).setReg 15 5).setReg 1 10)) (fun t => t.reg 15 == 0) = true := by decide

/-- A22, A23. -/
theorem test_subn_reg :
    gives (step (((placed 0x8127).setReg 1 5).setReg 2 10)) (fun t => t.reg 1 == 5 && t.reg 15 == 1) = true ∧
    gives (step ((((placed 0x8127).setReg 1 10).setReg 2 5).setReg 15 1)) (fun t => t.reg 1 == 0xFB && t.reg 15 == 0) = true := by
  decide

/-- A26, with both values of SHR_FILL. -/
theorem test_shr :
    gives (step ((((placed 0x8126).setReg 1 0x80).setReg 2 0xFF).setReg 15 1))
      (fun t => t.reg 1 == 0x40 && t.reg 2 == 0xFF && t.reg 15 == 0) = true ∧
    gives (step { ((placed 0x8126).setReg 1 0x80).setReg 2 0xFF with params := { defaultParams with shrFill := .sign } })
      (fun t => t.reg 1 == 0xC0 && t.reg 15 == 0) = true := by decide

/-- A29, A31. -/
theorem test_shl :
    gives (step ((placed 0x810E).setReg 1 0x81)) (fun t => t.reg 1 == 0x02 && t.reg 15 == 1) = true ∧
    gives (step ((placed 0x8F0E).setReg 15 0x80)) (fun t => t.reg 15 == 1) = true := by decide

/-- A32. -/
theorem test_rnd :
    gives (step { placed 0xC30F with random := [0xB7, 0x55] }) (fun t => t.reg 3 == 0x07 && t.random == [0x55] && t.draws == 1) = true := by
  decide

/-- M1, M3b. -/
theorem test_index :
    gives (step (placed 0xA123)) (fun t => t.i == 0x123) = true ∧
    gives (step ((((placed 0xF11E).setI 0xFFF).setReg 1 0xFF).setReg 15 1)) (fun t => t.i == 0x0FE && t.reg 15 == 1) = true := by
  decide

/-- M5. -/
theorem test_ld_f : gives (step ((placed 0xF429).setReg 4 0x3A)) (fun t => t.i == 0x082) = true := by decide

/-- M6, M9. -/
theorem test_ld_b :
    gives (step (((placed 0xF533).setI 0x300).setReg 5 156))
      (fun t => t.readByte 0x300 == 1 && t.readByte 0x301 == 5 && t.readByte 0x302 == 6) = true ∧
    gives (step (((placed 0xF533).setI 0xFFE).setReg 5 123))
      (fun t => t.readByte 0xFFE == 1 && t.readByte 0xFFF == 2 && t.readByte 0 == 3) = true := by decide

/-- M12. -/
theorem test_st_regs :
    gives (step (((((placed 0xF255).setI 0xFFF).setReg 0 0xAA).setReg 1 0xBB).setReg 2 0xCC))
      (fun t => t.readByte 0xFFF == 0xAA && t.readByte 0 == 0xBB && t.readByte 1 == 0xCC && t.readByte 2 == 0 && t.i == 0xFFF) = true := by
  decide

/-- M14, the font table's first 16 bytes; and M13's last clause for F065. -/
theorem test_ld_regs :
    gives (step ((placed 0xFF65).setI 0x050))
      (fun t => t.v.toList == [0xF0, 0x90, 0x90, 0x90, 0xF0, 0x20, 0x60, 0x20, 0x20, 0x70, 0xF0, 0x10, 0xF0, 0x80, 0xF0, 0xF0]) = true ∧
    gives (step (((placed 0xF065).setI 0x050).setReg 1 0x99)) (fun t => t.reg 0 == 0xF0 && t.reg 1 == 0x99) = true := by
  decide

/-- A framebuffer with the pixels lit. -/
def lit (cells : List (Nat × Nat)) : Frame := cells.foldl (fun f c => f.flip c.1 c.2) Frame.clear

/-- D1. -/
theorem test_cls :
    gives (step (((placed 0x00E0).setFb (lit [(0, 0), (31, 63)])).setReg 15 1))
      (fun t => t.fb == Frame.clear && t.reg 15 == 1) = true := by decide

/-- D6. -/
theorem test_drw_collision :
    gives (step ((((((((placed 0xD012).setI 0x300).writeByte 0x300 0xF0).writeByte 0x301 0x0F).setReg 0 4).setReg 1 2).setFb
        (lit [(2, 4), (3, 4)]))))
      (fun t => t.reg 15 == 1 &&
        t.fb == lit [(2, 5), (2, 6), (2, 7), (3, 4), (3, 8), (3, 9), (3, 10), (3, 11)]) = true := by decide

/-- D3, under wrap and under clip. -/
theorem test_drw_edge :
    gives (step ((((placed 0xD011).setI 0x300).writeByte 0x300 0xC0).setReg 0 63))
      (fun t => t.reg 15 == 0 && t.fb == lit [(0, 63), (0, 0)]) = true ∧
    gives (step { (((placed 0xD011).setI 0x300).writeByte 0x300 0xC0).setReg 0 63 with
        params := { defaultParams with spriteEdge := .clip } })
      (fun t => t.reg 15 == 0 && t.fb == lit [(0, 63)]) = true := by decide

/-- K1, K5. -/
theorem test_skp :
    gives (step { (placed 0xE29E).setReg 2 0x05 with keys := 0x0020 }) (fun t => t.pc == 0x204) = true ∧
    gives (step { (placed 0xE29E).setReg 2 0x05 with keys := 0xFFDF }) (fun t => t.pc == 0x202) = true := by decide

/-- K3, K4. -/
theorem test_sknp :
    gives (step { (placed 0xE2A1).setReg 2 0x05 with keys := 0x0000 }) (fun t => t.pc == 0x204) = true ∧
    gives (step { (placed 0xE2A1).setReg 2 0x05 with keys := 0x0020 }) (fun t => t.pc == 0x202) = true := by decide

/-- K8, K9, K10. -/
theorem test_timers :
    gives (step ((placed 0xF307).setDt 0x3C)) (fun t => t.reg 3 == 0x3C && t.dt == 0x3C) = true ∧
    gives (step ((placed 0xF315).setReg 3 5)) (fun t => t.dt == 5 && t.st == 0) = true ∧
    gives (step ((placed 0xF318).setReg 3 0x1E)) (fun t => t.st == 30 && t.dt == 0 && t.sound) = true := by decide

/-- K15. -/
theorem test_wait_begins :
    gives (step { placed 0xF50A with keys := 0x0004 })
      (fun t => t.mode == .awaitingKey 5 && t.prev == 0x0004 && t.pc == 0x200 && t.waiting) = true := by decide

/-- The state after K15, with other key levels. -/
def waitingWith (ks : BitVec 16) : State := { placed 0xF50A with mode := .awaitingKey 5, prev := 0x0004, keys := ks }

/-- K16, K17, K19. -/
theorem test_wait_cycle :
    gives (step (waitingWith 0x0004)) (fun t => t == waitingWith 0x0004) = true ∧
    gives (step (waitingWith 0x0000)) (fun t => t == { waitingWith 0x0000 with prev := 0 }) = true ∧
    gives (step (waitingWith 0x0104))
      (fun t => t.reg 5 == 8 && t.pc == 0x202 && t.mode == .running && t.prev == 0x0104) = true := by decide

/-- T1, its second tick; T3. -/
theorem test_timer_tick :
    gives (step { placed 0x1200 with dt := 4, st := 1, schedule := [.timerTick] })
      (fun t => t.dt == 3 && t.st == 0 && !t.sound && t.pc == 0x200) = true ∧
    gives (step { State.reset with mode := .halted, errKind := .unknownOpcode, errPc := 0x200, st := 1, schedule := [.timerTick] })
      (fun t => t.st == 0 && t.dt == 0 && t.halted && t.errPc == 0x200) = true := by decide

/-- X4, X5: a reset out of Halted. -/
theorem test_reset :
    gives (step { State.reset with mode := .halted, dt := 9, fb := lit [(3, 3)], schedule := [.reset [0x00, 0xE0]] })
      (fun t => t.mode == .running && t.dt == 0 && t.fb == Frame.clear && t.readByte 0x200 == 0x00 && t.readByte 0x201 == 0xE0 &&
        t.readByte 0x202 == 0 && t.readByte 0x04F == 0 && t.readByte 0x050 == 0xF0 && t.readByte 0x09F == 0x80 &&
        t.readByte 0x0A0 == 0) = true := by decide

/-- X3: from the bare reset state the first tick halts. -/
theorem test_empty_rom :
    gives (step State.reset) (fun t => t.mode == .halted && t.errKind.code == 1 && t.errPc == 0x200 && t.errOpcode == 0) = true := by
  decide

/-! ## Witnesses: states and operands that meet the hypotheses of the statements -/

theorem witness_DecodeOfEncodeIsInstruction :
    (Instr.drw 15 0 15).wellFormed = true ∧ (Instr.ldRegs 15).wellFormed = true := by decide

theorem witness_EncodeOfDecodeIsWord :
    decodeWord 0xFF65 = .ok (.ldRegs 15) ∧ decodeWord 0xDFFF = .ok (.drw 15 15 15) := by decide

theorem witness_DecodesExactlyTheOpcodeMap :
    (decodeWord 0x00E0 = .ok .cls ∧ ∀ r ∈ opcodeRows, r.selects 0x00E0 = true ↔ r = rowOf .cls) ∧
    (decodeWord 0xFFFF = .error (.unknownOpcode 0xFFFF) ∧ ∀ r ∈ opcodeRows, r.selects 0xFFFF = false) := by decide

theorem witness_StepRunsDecodedInstruction :
    (placed 0x6A02).mode = .running ∧ (placed 0x6A02).nextMove = .instructionTick ∧
    decode [(placed 0x6A02).readByte (placed 0x6A02).pc.toNat, (placed 0x6A02).readByte ((placed 0x6A02).pc.toNat + 1)] =
      .ok (.ldImm 10 2, []) := by decide

/-- Also the second clause of PcAfterEveryInstruction. -/
theorem witness_UnknownWordHalts :
    State.reset.mode = .running ∧ State.reset.nextMove = .instructionTick ∧
    ∀ r ∈ opcodeRows, r.selects State.reset.fetchWord = false := by decide

theorem witness_AwaitingKeyCycle_no_fresh_key :
    (waitingWith 0x0004).mode = .awaitingKey 5 ∧ (waitingWith 0x0004).nextMove = .instructionTick ∧
    ∀ k : KeyNum, (waitingWith 0x0004).keys.getLsbD k.val = true → (waitingWith 0x0004).prev.getLsbD k.val = true := by decide

theorem witness_AwaitingKeyCycle_fresh_key :
    (waitingWith 0x8104).mode = .awaitingKey 5 ∧ (waitingWith 0x8104).nextMove = .instructionTick ∧
    (waitingWith 0x8104).keys.getLsbD (8 : KeyNum).val = true ∧ (waitingWith 0x8104).prev.getLsbD (8 : KeyNum).val = false ∧
    ∀ k : KeyNum, k < 8 → (waitingWith 0x8104).keys.getLsbD k.val = true → (waitingWith 0x8104).prev.getLsbD k.val = true := by
  decide

/-- A halted state, with the host's moves still to come. -/
def haltedWith (ms : List HostMove) : State :=
  { State.reset with mode := .halted, errKind := .unknownOpcode, errPc := 0x200, schedule := ms }

theorem witness_HaltedTickChangesNothing :
    (haltedWith []).mode = .halted ∧ (haltedWith []).nextMove = .instructionTick := by decide

theorem witness_TimerTickCountsDown : (haltedWith [.timerTick]).nextMove = .timerTick := by decide

theorem witness_TimerTicksRunDown :
    (haltedWith [.timerTick, .timerTick, .instructionTick]).schedule =
      List.replicate 2 .timerTick ++ [.instructionTick] := by decide

theorem witness_OnlyResetLeavesHalted :
    (haltedWith [.setKeys 1]).mode = .halted ∧ (∀ rom, (haltedWith [.setKeys 1]).nextMove ≠ .reset rom) ∧
    ∃ t, step (haltedWith [.setKeys 1]) = .next t :=
  ⟨rfl, fun _ h => HostMove.noConfusion h, _, rfl⟩

/-- The largest ROM, an empty one, and inner clauses at the ends of their ranges. -/
theorem witness_ResetLoadsRom :
    (List.replicate 0xE00 (1 : Byte)).length ≤ 0xE00 ∧
    (haltedWith [.reset (List.replicate 0xE00 1)]).nextMove = .reset (List.replicate 0xE00 1) ∧
    ([] : List Byte).length ≤ 0xE00 ∧ (haltedWith [.reset []]).nextMove = .reset [] ∧
    0x200 + ([] : List Byte).length ≤ 0x200 ∧ 0xFFF < 0x1000 ∧ (0x04F : Nat) < (haltedWith []).params.fontBase.val ∧
    (haltedWith []).params.fontBase.val + 80 ≤ 0x0A0 ∧ (0x0A0 : Nat) < 0x200 :=
  ⟨by rw [List.length_replicate], rfl, by decide, rfl, by decide, by decide, by decide, by decide, by decide⟩

theorem witness_ResetRejectsLongRom :
    0xE00 < (List.replicate 0xE01 (1 : Byte)).length ∧
    (haltedWith [.reset (List.replicate 0xE01 1)]).nextMove = .reset (List.replicate 0xE01 1) :=
  ⟨by rw [List.length_replicate]; decide, rfl⟩

theorem witness_StepKeepsInvariant :
    State.Inv (placed 0x6A02) ∧ State.Inv (haltedWith []) ∧ (∃ t, step (placed 0x6A02) = .next t) ∧
    ∃ t, step (haltedWith []) = .next t :=
  ⟨⟨by decide, by decide, by decide, by decide, by decide, by decide, by decide⟩,
   ⟨by decide, by decide, by decide, by decide, by decide, by decide, by decide⟩, ⟨_, rfl⟩, _, rfl⟩

theorem witness_PcAfterEveryInstruction_instruction :
    (∃ t, exec .ret State.reset = .next t) ∧ (∃ t, exec .ret { State.reset with sp := 1 } = .next t) ∧
    (∃ t, exec (.call 0xFFF) { State.reset with sp := 16 } = .next t) ∧ ∃ t, exec (.skp 0) (State.reset.setPc 0xFFE) = .next t :=
  ⟨⟨_, rfl⟩, ⟨_, rfl⟩, ⟨_, rfl⟩, _, rfl⟩

theorem witness_PcAfterEveryInstruction_wait :
    (waitingWith 0x0004).mode = .awaitingKey 5 ∧ (waitingWith 0x0004).nextMove = .instructionTick ∧
    (∃ t, step (waitingWith 0x0004) = .next t) ∧ (waitingWith 0x0001).mode = .awaitingKey 5 ∧
    (waitingWith 0x0001).nextMove = .instructionTick ∧ ∃ t, step (waitingWith 0x0001) = .next t :=
  ⟨rfl, rfl, ⟨_, rfl⟩, rfl, rfl, _, rfl⟩

theorem witness_RegistersWrittenByInstructions :
    (∃ t, exec (.addReg 1 2) State.reset = .next t) ∧ ¬ mayWrite (.addReg 1 2) 2 ∧
    (∃ t, exec (.ldRegs 14) State.reset = .next t) ∧ ¬ mayWrite (.ldRegs 14) 15 :=
  ⟨⟨_, rfl⟩, by simp [mayWrite], ⟨_, rfl⟩, by simp [mayWrite]⟩

theorem witness_FramebufferWriters :
    (∃ t, step ((placed 0x00E0).setFb (lit [(31, 63)])) = .next t ∧ t.fb ≠ ((placed 0x00E0).setFb (lit [(31, 63)])).fb) ∧
    (∃ t, step ((placed 0xD001).setI 0x050) = .next t ∧ t.fb ≠ ((placed 0xD001).setI 0x050).fb) ∧
    ∃ t, step ((haltedWith [.reset []]).setFb (lit [(0, 0)])) = .next t ∧ t.fb ≠ ((haltedWith [.reset []]).setFb (lit [(0, 0)])).fb :=
  ⟨⟨_, rfl, by decide⟩, ⟨_, rfl, by decide⟩, _, rfl, by decide⟩

theorem witness_MemoryWriters :
    (∃ t, step ((placed 0xF533).setReg 5 1) = .next t ∧ ∃ a, t.readByte a ≠ ((placed 0xF533).setReg 5 1).readByte a) ∧
    (∃ t, step ((placed 0xF055).setReg 0 1) = .next t ∧ ∃ a, t.readByte a ≠ ((placed 0xF055).setReg 0 1).readByte a) ∧
    ∃ t, step (haltedWith [.reset [1]]) = .next t ∧ ∃ a, t.readByte a ≠ (haltedWith [.reset [1]]).readByte a :=
  ⟨⟨_, rfl, 2, by decide⟩, ⟨_, rfl, 0, by decide⟩, _, rfl, 0x200, by decide⟩

theorem witness_SpecialRegisterWriters :
    (∃ t, exec (.ldI 0xFFF) State.reset = .next t ∧ t.i ≠ State.reset.i) ∧
    (∃ t, exec (.addI 0) (State.reset.setReg 0 1) = .next t ∧ t.i ≠ (State.reset.setReg 0 1).i) ∧
    (∃ t, exec (.ldF 0) State.reset = .next t ∧ t.i ≠ State.reset.i) ∧
    (∃ t, exec (.call 0) State.reset = .next t ∧ t.stk ≠ State.reset.stk ∧ t.sp ≠ State.reset.sp) ∧
    (∃ t, exec .ret { State.reset with sp := 16 } = .next t ∧ t.sp ≠ 16) ∧
    (∃ t, exec (.ldDT 0) (State.reset.setReg 0 1) = .next t ∧ t.dt ≠ (State.reset.setReg 0 1).dt) ∧
    (∃ t, exec (.ldST 0) (State.reset.setReg 0 1) = .next t ∧ t.st ≠ (State.reset.setReg 0 1).st) ∧
    ∃ t, exec (.ldVxK 0) { State.reset with keys := 1 } = .next t ∧ t.prev ≠ State.reset.prev :=
  ⟨⟨_, rfl, by decide⟩, ⟨_, rfl, by decide⟩, ⟨_, rfl, by decide⟩, ⟨_, rfl, by decide, by decide⟩, ⟨_, rfl, by decide⟩,
   ⟨_, rfl, by decide⟩, ⟨_, rfl, by decide⟩, _, rfl, by decide⟩

theorem witness_ModeAndErrorWriters :
    State.reset.mode = .running ∧ (∃ t, exec .cls State.reset = .next t) ∧ (∃ t, exec (.ldVxK 15) State.reset = .next t) ∧
    (∃ t, exec .ret State.reset = .next t) ∧
    ({ State.reset with sp := 16 } : State).mode = .running ∧ ∃ t, exec (.call 0) { State.reset with sp := 16 } = .next t :=
  ⟨rfl, ⟨_, rfl⟩, ⟨_, rfl⟩, ⟨_, rfl⟩, rfl, _, rfl⟩

theorem witness_StepKeepsParameters : ∃ t, step (haltedWith [.reset []]) = .next t := ⟨_, rfl⟩

theorem witness_ErrorsArePrecise :
    (State.reset.mode = .running ∧ State.reset.nextMove = .instructionTick ∧
      ∃ t, step State.reset = .next t ∧ t.mode = .halted) ∧
    ((placed 0x00EE).mode = .running ∧ (placed 0x00EE).nextMove = .instructionTick ∧
      ∃ t, step (placed 0x00EE) = .next t ∧ t.mode = .halted) ∧
    ({ placed 0x2ABC with sp := 16 } : State).mode = .running ∧
      ({ placed 0x2ABC with sp := 16 } : State).nextMove = .instructionTick ∧
      ∃ t, step { placed 0x2ABC with sp := 16 } = .next t ∧ t.mode = .halted :=
  ⟨⟨rfl, rfl, _, rfl, rfl⟩, ⟨rfl, rfl, _, rfl, rfl⟩, rfl, rfl, _, rfl, rfl⟩

theorem witness_InputsReadOnlyWhereSaid :
    (∃ t, exec (.rnd 3 15) { State.reset with random := [0xB7] } = .next t) ∧
    (∀ x, Instr.rnd 3 15 ≠ .skp x) ∧ (∀ x, Instr.rnd 3 15 ≠ .sknp x) ∧ (∀ x, Instr.rnd 3 15 ≠ .ldVxK x) ∧
    (∃ t, exec (.skp 3) State.reset = .next t) ∧ ∀ x nn, Instr.skp 3 ≠ .rnd x nn :=
  ⟨⟨_, rfl⟩, nofun, nofun, nofun, ⟨_, rfl⟩, nofun⟩

theorem witness_CanonicalMemoriesAreEqual :
    Memory.wf defaultParams [(0x000, 1), (0xFFF, 2)] ∧
    ∀ a, a < 0x1000 → Memory.read defaultParams [(0x000, 1), (0xFFF, 2)] a = Memory.read defaultParams [(0x000, 1), (0xFFF, 2)] a :=
  ⟨by decide, fun _ _ => rfl⟩

theorem witness_StoredWordIsFetched :
    1 ≤ (1 : RegNum).val ∧
    ((State.reset.setPc 0xFFE).setI 0).i.toNat % 0x1000 = (((State.reset.setPc 0xFFE).setI 0).pc.toNat + 2) % 0x1000 ∧
    ∃ t, exec (.stRegs 1) ((State.reset.setPc 0xFFE).setI 0) = .next t :=
  ⟨by decide, by decide, _, rfl⟩

theorem witness_RetPopsIntoPc : ({ State.reset with sp := 1 } : State).sp ≠ 0 ∧ ({ State.reset with sp := 16 } : State).sp ≠ 0 := by
  decide

theorem witness_StackErrorsHalt : State.reset.sp = 0 ∧ ({ State.reset with sp := 16 } : State).sp = 16 := by decide

/-- Also RetAfterCallResumes, with an entry below. -/
theorem witness_CallPushesAndJumps :
    State.reset.sp ≠ 16 ∧ ({ State.reset with sp := 15 } : State).sp ≠ 16 ∧
    (14 : Fin 16).val < ({ State.reset with sp := 15 } : State).sp.val := by decide

theorem witness_RndMasksRandomByte :
    ({ State.reset with random := [0xB7] } : State).random.head? = some 0xB7 ∧
    State.reset.random = [] ∧ Config.randomByte State.reset.draws = Config.randomByte State.reset.draws :=
  ⟨rfl, rfl, rfl⟩

/-- The three stored addresses wrap, and an address outside them. -/
theorem witness_LdBStoresDigits :
    (State.reset.setI 0xFFE).dataAddress 0 = 0xFFE ∧ (State.reset.setI 0xFFE).dataAddress 2 = 0 ∧
    ∀ k, k ≤ 2 → 1 % 0x1000 ≠ (State.reset.setI 0xFFE).dataAddress k := by
  refine ⟨by decide, by decide, fun k hk => ?_⟩
  match k, hk with
  | 0, _ => decide
  | 1, _ => decide
  | 2, _ => decide

theorem witness_StRegsStoresRegisters :
    (15 : RegNum) ≤ 15 ∧ ∀ k, k ≤ (0 : RegNum).val → 0x301 % 0x1000 ≠ (State.reset.setI 0x300).dataAddress k := by
  refine ⟨by decide, fun k hk => ?_⟩
  match k, hk with
  | 0, _ => decide

theorem witness_LoadAfterDumpRestores : (0 : RegNum) ≤ 15 ∧ (15 : RegNum) ≤ 15 := by decide

/-- A sprite of one byte 0xC0 drawn at row 0, column 63. -/
def cornerSprite : State := ((State.reset.setI 0x300).writeByte 0x300 0xC0).setReg 0 63

/-- Covered pixels at the right edge and past it, one off and one on, and a pixel not covered. -/
theorem witness_DrwFlipsCoveredPixels :
    1 < 16 ∧ cornerSprite.spriteCovers 0 1 1 0 63 ∧ cornerSprite.spriteCovers 0 1 1 0 0 ∧
    cornerSprite.fb.pixel 0 63 = false ∧
    (cornerSprite.setFb (lit [(0, 0)])).spriteCovers 0 1 1 0 0 ∧ (cornerSprite.setFb (lit [(0, 0)])).fb.pixel 0 0 = true ∧
    ¬ cornerSprite.spriteCovers 0 1 0 0 0 :=
  ⟨by decide, ⟨0, 0, by decide, by decide, by decide, rfl, rfl⟩, ⟨0, 1, by decide, by decide, by decide, rfl, rfl⟩,
   by decide, ⟨0, 1, by decide, by decide, by decide, rfl, rfl⟩, by decide, fun ⟨_, _, h, _⟩ => absurd h (Nat.not_lt_zero _)⟩

theorem witness_DrwCollisionFlag :
    1 < 16 ∧
    (∃ t, exec (.drw 0 1 1) (cornerSprite.setFb (lit [(0, 0)])) = .next t ∧
      (cornerSprite.setFb (lit [(0, 0)])).fb.pixel 0 0 = true ∧ t.fb.pixel 0 0 = false) :=
  ⟨by decide, _, rfl, by decide, by decide⟩

/-- The second draw at the same place, and no collision on the first. -/
theorem witness_DrwTwiceRestoresFramebuffer :
    1 < 16 ∧ ∃ t, exec (.drw 0 1 1) cornerSprite = .next t ∧
      (t.reg 0).toNat % 64 = (cornerSprite.reg 0).toNat % 64 ∧ (t.reg 1).toNat % 32 = (cornerSprite.reg 1).toNat % 32 :=
  ⟨by decide, _, rfl, by decide, by decide⟩

end Sys2Proof.Tests
end

section
/-! Proofs of spec/40_flow.md: the unconditional jump and the conditional skips on register values. Each of them is a write
of pc, so one lemma about such an instruction gives the frame and the new pc of all. -/

namespace Sys2Proof.Machine

variable {s : State} {i : Instr}

/-! ### The jump and the skips as writes of pc -/

@[simp] theorem exec_jp (s : State) (nnn : BitVec 12) : exec (.jp nnn) s = .next (s.setPc nnn.toNat) := rfl

@[simp] theorem exec_seImm (s : State) (x : RegNum) (nn : Byte) :
    exec (.seImm x nn) s = .next (s.skipIf (s.reg x == nn)) := rfl

@[simp] theorem exec_sneImm (s : State) (x : RegNum) (nn : Byte) :
    exec (.sneImm x nn) s = .next (s.skipIf (s.reg x != nn)) := rfl

@[simp] theorem exec_seReg (s : State) (x y : RegNum) :
    exec (.seReg x y) s = .next (s.skipIf (s.reg x == s.reg y)) := rfl

@[simp] theorem exec_sneReg (s : State) (x y : RegNum) :
    exec (.sneReg x y) s = .next (s.skipIf (s.reg x != s.reg y)) := rfl

/-- An instruction that ends by writing pc changes nothing else, memory as read included; the write is reduced modulo
0x1000 (R7, R89). -/
theorem exec_setPc_frame {n : Nat} (h : exec i s = .next (s.setPc n)) :
    ∃ t, exec i s = .next t ∧ t = { s with pc := t.pc } ∧ sameMemory s t ∧ t.pc.toNat = n % 0x1000 :=
  ⟨s.setPc n, h, rfl, setPc_readByte s n, wrap12_toNat n⟩

/-- A conditional skip moves pc by 4 or 2 as its predicate `c` says, and changes nothing else. -/
theorem exec_skipIf_frame {c : Bool} (h : exec i s = .next (s.skipIf c)) :
    ∃ t, exec i s = .next t ∧ t = { s with pc := t.pc } ∧ sameMemory s t ∧ pcMoved s t (if c then 4 else 2) :=
  exec_setPc_frame h

/-- SE, with whichever second operand `b`: the skip is taken when the values are equal. -/
theorem exec_skipIf_beq_frame {a b : Byte} (h : exec i s = .next (s.skipIf (a == b))) :
    ∃ t, exec i s = .next t ∧ t = { s with pc := t.pc } ∧ sameMemory s t ∧ pcMoved s t (if a = b then 4 else 2) := by
  simpa only [beq_iff_eq] using exec_skipIf_frame h

/-- SNE, with whichever second operand `b`: the skip is taken when the values differ. -/
theorem exec_skipIf_bne_frame {a b : Byte} (h : exec i s = .next (s.skipIf (a != b))) :
    ∃ t, exec i s = .next t ∧ t = { s with pc := t.pc } ∧ sameMemory s t ∧ pcMoved s t (if a = b then 2 else 4) := by
  simpa only [bne_iff_ne, ne_eq, ite_not] using exec_skipIf_frame h

/-! ### The obligations -/

/-- Settles O31: a 12-bit target is below 0x1000, so the reduction of the written pc leaves it as it is. -/
theorem jpSetsPc : Obligations.JpSetsPc := by
  intro s nnn
  have hlt : nnn.toNat % 0x1000 = nnn.toNat := Nat.mod_eq_of_lt nnn.isLt
  simpa only [hlt] using exec_setPc_frame (exec_jp s nnn)

/-- Settles O35: the two skips with the immediate as second operand. -/
theorem skipsOnImmediate : Obligations.SkipsOnImmediate := fun s x nn =>
  ⟨exec_skipIf_beq_frame (exec_seImm s x nn), exec_skipIf_bne_frame (exec_sneImm s x nn)⟩

/-- Settles O36: the two skips with a register as second operand. -/
theorem skipsOnRegisters : Obligations.SkipsOnRegisters := fun s x y =>
  ⟨exec_skipIf_beq_frame (exec_seReg s x y), exec_skipIf_bne_frame (exec_sneReg s x y)⟩

end Sys2Proof.Machine
end

section
/-! Proofs of spec/41_alu.md: the load and the addition of an immediate, and the bitwise operations. Each of them is one
register write and the advance of pc, so one lemma about such an instruction gives the frame of all. -/

namespace Sys2Proof.Machine

variable {s : State} {i : Instr} {x : RegNum} {r : Byte}

/-! ### The instructions as register writes -/

@[simp] theorem exec_ldImm (s : State) (x : RegNum) (nn : Byte) :
    exec (.ldImm x nn) s = .next (s.setReg x nn).advance := rfl

@[simp] theorem exec_addImm (s : State) (x : RegNum) (nn : Byte) :
    exec (.addImm x nn) s = .next (s.setReg x (addBytes (s.reg x) nn)).advance := rfl

@[simp] theorem exec_orReg (s : State) (x y : RegNum) :
    exec (.orReg x y) s = .next (s.setReg x (s.reg x ||| s.reg y)).advance := rfl

@[simp] theorem exec_andReg (s : State) (x y : RegNum) :
    exec (.andReg x y) s = .next (s.setReg x (s.reg x &&& s.reg y)).advance := rfl

@[simp] theorem exec_xorReg (s : State) (x y : RegNum) :
    exec (.xorReg x y) s = .next (s.setReg x (s.reg x ^^^ s.reg y)).advance := rfl

/-- An instruction that writes one register and advances changes nothing else, memory as read included; VF is written only
as the destination (R12). -/
theorem exec_setReg_frame (h : exec i s = .next (s.setReg x r).advance) :
    ∃ t, exec i s = .next t ∧ onlyVPc s t ∧ pcMoved s t 2 ∧ ∀ k : RegNum, t.reg k = if k = x then r else s.reg k :=
  ⟨(s.setReg x r).advance, h, ⟨rfl, fun _ => rfl⟩, wrap12_toNat (s.pc.toNat + 2), setReg_reg s x r⟩

/-- The same, for a result known bit by bit: `c b` is its bit `b`. -/
theorem exec_setReg_frame_bits {c : Nat → Bool} (h : exec i s = .next (s.setReg x r).advance)
    (hbits : ∀ b, r.getLsbD b = c b) :
    ∃ t, exec i s = .next t ∧ onlyVPc s t ∧ pcMoved s t 2 ∧
      ∀ (k : RegNum) (b : Nat), (t.reg k).getLsbD b = if k = x then c b else (s.reg k).getLsbD b := by
  obtain ⟨t, hexec, hframe, hpc, hreg⟩ := exec_setReg_frame h
  refine ⟨t, hexec, hframe, hpc, fun k b => ?_⟩
  rw [hreg k, apply_ite (BitVec.getLsbD · b), hbits b]

/-! ### The obligations -/

/-- Settles O38: the register written is X and the value is the immediate. -/
theorem ldImmLoads : Obligations.LdImmLoads := fun s x nn => exec_setReg_frame (exec_ldImm s x nn)

/-- Settles O39: the value written is the byte sum, which wraps. -/
theorem addImmWraps : Obligations.AddImmWraps := by
  intro s x nn
  obtain ⟨t, hexec, hframe, hpc, hreg⟩ := exec_setReg_frame (exec_addImm s x nn)
  refine ⟨t, hexec, hframe, hpc, fun k => ?_⟩
  rw [hreg k, apply_ite BitVec.toNat, addBytes_toNat]

/-- Settles O41: the value written is, bit by bit, the or, the and, the exclusive or of the operands. -/
theorem logicIsBitwise : Obligations.LogicIsBitwise := fun s x y =>
  ⟨exec_setReg_frame_bits (exec_orReg s x y) fun _ => BitVec.getLsbD_or,
   exec_setReg_frame_bits (exec_andReg s x y) fun _ => BitVec.getLsbD_and,
   exec_setReg_frame_bits (exec_xorReg s x y) fun _ => BitVec.getLsbD_xor⟩

end Sys2Proof.Machine
end

section
/-! Proofs of spec/42_index_memory.md: the two writes of I, which share one frame lemma, and the store of the decimal digits,
read back byte by byte. -/

namespace Sys2Proof.Machine

variable {s : State} {i : Instr}

/-! ### Writes of I -/

@[simp] theorem exec_ldI (s : State) (nnn : BitVec 12) : exec (.ldI nnn) s = .next (s.setI nnn.toNat).advance := rfl

@[simp] theorem exec_addI (s : State) (x : RegNum) :
    exec (.addI x) s = .next (s.setI (s.i.toNat + (s.reg x).toNat)).advance := rfl

/-- An instruction that writes I and advances changes nothing else, memory as read included; the write is reduced modulo
0x1000 (R16). -/
theorem exec_setI_frame {n : Nat} (h : exec i s = .next (s.setI n).advance) :
    ∃ t, exec i s = .next t ∧ t = { s with i := t.i, pc := t.pc } ∧ sameMemory s t ∧ pcMoved s t 2 ∧
      t.i.toNat = n % 0x1000 :=
  ⟨(s.setI n).advance, h, rfl, fun _ => rfl, wrap12_toNat (s.pc.toNat + 2), wrap12_toNat n⟩

/-! ### The store of the decimal digits -/

/-- The three writes of LD B for the value `b`, in the order of R123. -/
def State.storeDigits (s : State) (b : Byte) : State :=
  ((s.writeByte (s.dataAddress 0) (hundreds b)).writeByte (s.dataAddress 1) (tens b)).writeByte (s.dataAddress 2) (units b)

@[simp] theorem exec_ldB (s : State) (x : RegNum) : exec (.ldB x) s = .next (s.storeDigits (s.reg x)).advance := rfl

/-- What the three writes leave at an address. -/
theorem storeDigits_readByte (s : State) (b : Byte) (a : Nat) :
    (s.storeDigits b).readByte a =
      if a % 0x1000 = s.dataAddress 2 then units b
      else if a % 0x1000 = s.dataAddress 1 then tens b
      else if a % 0x1000 = s.dataAddress 0 then hundreds b
      else s.readByte a := by
  simp only [State.storeDigits, writeByte_readByte, dataAddress_mod]

/-- The addresses at different offsets are different, so no write of LD B falls on an earlier one. -/
theorem dataAddress_ne (s : State) {j k : Nat} (hj : j < 0x1000) (hk : k < 0x1000) (h : j ≠ k) :
    s.dataAddress j ≠ s.dataAddress k := fun he => h (dataAddress_inj s hj hk he)

theorem storeDigits_readByte_hundreds (s : State) (b : Byte) :
    (s.storeDigits b).readByte (s.dataAddress 0) = hundreds b := by
  have h02 : s.dataAddress 0 ≠ s.dataAddress 2 := dataAddress_ne s (by decide) (by decide) (by decide)
  have h01 : s.dataAddress 0 ≠ s.dataAddress 1 := dataAddress_ne s (by decide) (by decide) (by decide)
  rw [storeDigits_readByte, dataAddress_mod, if_neg h02, if_neg h01, if_pos rfl]

theorem storeDigits_readByte_tens (s : State) (b : Byte) :
    (s.storeDigits b).readByte (s.dataAddress 1) = tens b := by
  have h12 : s.dataAddress 1 ≠ s.dataAddress 2 := dataAddress_ne s (by decide) (by decide) (by decide)
  rw [storeDigits_readByte, dataAddress_mod, if_neg h12, if_pos rfl]

theorem storeDigits_readByte_units (s : State) (b : Byte) :
    (s.storeDigits b).readByte (s.dataAddress 2) = units b := by
  rw [storeDigits_readByte, dataAddress_mod, if_pos rfl]

theorem storeDigits_readByte_of_ne (s : State) (b : Byte) {a : Nat} (h : ∀ k, k ≤ 2 → a % 0x1000 ≠ s.dataAddress k) :
    (s.storeDigits b).readByte a = s.readByte a := by
  rw [storeDigits_readByte, if_neg (h 2 (by decide)), if_neg (h 1 (by decide)), if_neg (h 0 (by decide))]

/-! ### The obligations -/

/-- Settles O47: a 12-bit immediate is below 0x1000, so the reduction of the written I leaves it as it is; the sum of ADD I
is reduced. -/
theorem indexSetAndAdd : Obligations.IndexSetAndAdd := by
  refine ⟨fun s nnn => ?_, fun s x => exec_setI_frame (exec_addI s x)⟩
  have hlt : nnn.toNat % 0x1000 = nnn.toNat := Nat.mod_eq_of_lt nnn.isLt
  simpa only [hlt] using exec_setI_frame (exec_ldI s nnn)

/-- Settles O49: each of the three addresses holds its digit after the writes, and any other address what it held. -/
theorem ldBStoresDigits : Obligations.LdBStoresDigits := by
  intro s x
  refine ⟨(s.storeDigits (s.reg x)).advance, exec_ldB s x, rfl, wrap12_toNat (s.pc.toNat + 2), ?_, ?_, ?_, fun a ha => ?_⟩
  · rw [advance_readByte, storeDigits_readByte_hundreds, hundreds_toNat]
  · rw [advance_readByte, storeDigits_readByte_tens, tens_toNat]
  · rw [advance_readByte, storeDigits_readByte_units, units_toNat]
  · rw [advance_readByte, storeDigits_readByte_of_ne s (s.reg x) ha]

end Sys2Proof.Machine
end

section
/-! Proofs of spec/43_display.md: the clear, and the flag that DRW leaves in VF, which is read off what drawing does to each
pixel. -/

namespace Sys2Proof.Machine

/-! ### The two instructions as writes of the framebuffer -/

@[simp] theorem exec_cls (s : State) : exec .cls s = .next (s.setFb Frame.clear).advance := rfl

@[simp] theorem exec_drw (s : State) (x y : RegNum) (n : Nat) :
    exec (.drw x y n) s =
      .next ((s.setFb (s.drawn x y n).1).setReg regF (flagByte (s.drawn x y n).2)).advance := rfl

/-! ### The collision flag -/

@[simp] theorem flagByte_true : flagByte true = 1 := rfl
@[simp] theorem flagByte_false : flagByte false = 0 := rfl

/-- The pixels that drawing a sprite turns off are the pixels that it covers and that were on. -/
theorem drawn_turns_off_iff (s : State) (x y : RegNum) {n : Nat} (hn : n < 16) (py px : Nat) :
    (s.fb.pixel py px = true ∧ (s.drawn x y n).1.pixel py px = false) ↔
      (s.spriteCovers x y n py px ∧ s.fb.pixel py px = true) := by
  obtain ⟨hcovered, huncovered, -⟩ := drawn_spec s x y hn
  by_cases hc : s.spriteCovers x y n py px
  · simp [hcovered py px hc, hc]
  · simp [huncovered py px hc, hc]

/-- Drawing a sprite reports a collision exactly when some pixel goes from on to off (R139). -/
theorem drawn_collides_iff (s : State) (x y : RegNum) {n : Nat} (hn : n < 16) :
    (s.drawn x y n).2 = true ↔ ∃ py px, s.fb.pixel py px = true ∧ (s.drawn x y n).1.pixel py px = false := by
  obtain ⟨-, -, hcollides⟩ := drawn_spec s x y hn
  simp only [drawn_turns_off_iff s x y hn, hcollides]

/-- DRW answers with the framebuffer drawn, and with the collision flag in VF. -/
theorem exec_drw_fb_flag (s : State) (x y : RegNum) (n : Nat) :
    ∃ t, exec (.drw x y n) s = .next t ∧ t.fb = (s.drawn x y n).1 ∧ t.reg 15 = flagByte (s.drawn x y n).2 :=
  ⟨_, exec_drw s x y n, rfl, (setReg_reg _ regF _ 15).trans (if_pos rfl)⟩

/-! ### The obligations -/

/-- Settles O53: the framebuffer written is the clear one, and no register is written. -/
theorem clsClearsFramebuffer : Obligations.ClsClearsFramebuffer := fun s =>
  ⟨(s.setFb Frame.clear).advance, exec_cls s, rfl, fun _ => rfl, wrap12_toNat (s.pc.toNat + 2), pixel_clear⟩

/-- Settles O55: the flag in VF is the collision that drawing reports, and drawing reports one exactly when it turns some
pixel off. -/
theorem drwCollisionFlag : Obligations.DrwCollisionFlag := by
  intro s x y n hn
  obtain ⟨t, hexec, hfb, hflag⟩ := exec_drw_fb_flag s x y n
  refine ⟨t, hexec, fun hoff => ?_, fun hnone => ?_⟩
  · rw [hfb] at hoff
    rw [hflag, (drawn_collides_iff s x y hn).mpr hoff, flagByte_true]
  · rw [hfb, ← drawn_collides_iff s x y hn, Bool.not_eq_true] at hnone
    rw [hflag, hnone, flagByte_false]

end Sys2Proof.Machine
end

section
/-! Proofs of spec/44_keypad_timers.md: the read of the delay timer, which is a register write and the advance of pc. -/

namespace Sys2Proof.Machine

@[simp] theorem exec_ldVxDT (s : State) (x : RegNum) : exec (.ldVxDT x) s = .next (s.setReg x s.dt).advance := rfl

/-- Settles O57: the register written is X and the value is DT before the instruction. -/
theorem ldVxDTReadsTimer : Obligations.LdVxDTReadsTimer := fun s x => exec_setReg_frame (exec_ldVxDT s x)

end Sys2Proof.Machine
end

section
/-! Proofs of spec/30_encoding.md: decoding and encoding are inverse to each other, and the decoder accepts exactly the words
that select a row of the opcode map. -/

namespace Sys2Proof

/-! ### Decoding an encoded word -/

/-- Decoding the word of a well-formed instruction gives the instruction (R62, R65). -/
theorem decodeWord_encode {i : Instr} (h : i.wellFormed = true) : decodeWord (encode i) = .ok i := by
  cases i with
  | cls | ret => rfl
  | jp nnn | call nnn | ldI nnn | jpV0 nnn => simp [encode, decodeWord]
  | seImm x nn | sneImm x nn | ldImm x nn | addImm x nn | rnd x nn => simp [encode, decodeWord]
  | seReg x y => simp [encode, decodeWord, decodeGroup5]
  | sneReg x y => simp [encode, decodeWord, decodeGroup9]
  | ldReg x y | orReg x y | andReg x y | xorReg x y | addReg x y | subReg x y | shr x y | subnReg x y | shl x y =>
    simp [encode, decodeWord, decodeGroup8]
  | drw x y n =>
    have hn : n % 16 = n := Nat.mod_eq_of_lt (by simpa [Instr.wellFormed, heightFits] using h)
    simp [encode, decodeWord, hn]
  | skp x | sknp x => simp [encode, decodeWord, decodeGroupE]
  | ldVxDT x | ldVxK x | ldDT x | ldST x | addI x | ldF x | ldB x | stRegs x | ldRegs x =>
    simp [encode, decodeWord, decodeGroupF]

/-- The head of a byte string is decoded by its first two bytes, as one word (R60). -/
theorem decode_bytesOfWord (w : Word) (rest : List Byte) :
    decode ((bytesOfWord w).1 :: (bytesOfWord w).2 :: rest) = (decodeWord w).map fun i => (i, rest) := by
  simp only [decode, wordOfBytes_bytesOfWord]

/-! ### A word from its major opcode and its other fields -/

section
variable {w : Word} {op : BitVec 4}

theorem fieldOP_eq (h : (fieldOP w).toNat = op.toNat) : fieldOP w = op := BitVec.eq_of_toNat_eq h

theorem wordADDR_fields (h : (fieldOP w).toNat = op.toNat) : wordADDR op (fieldNNN w) = w := by
  rw [← fieldOP_eq h, ← word_eq_ADDR]

theorem wordREG_fields {minor : Byte} (h : (fieldOP w).toNat = op.toNat) (hm : (fieldNN w).toNat = minor.toNat) :
    wordREG op (fieldX w) minor = w := by
  rw [← fieldOP_eq h, ← BitVec.eq_of_toNat_eq hm, ← word_eq_REG]

theorem wordREGIMM_fields (h : (fieldOP w).toNat = op.toNat) : wordREGIMM op (fieldX w) (fieldNN w) = w :=
  wordREG_fields h rfl

theorem wordREGREG_fields {n : BitVec 4} (h : (fieldOP w).toNat = op.toNat) (hn : (fieldN w).toNat = n.toNat) :
    wordREGREG op (fieldX w) (fieldY w) n = w := by
  rw [← fieldOP_eq h, ← BitVec.eq_of_toNat_eq hn, ← word_eq_REGREG]

end

/-! ### Encoding a decoded word, group by group -/

/-- `i` is well-formed and `w` is its word. -/
def Instr.HasWord (i : Instr) (w : Word) : Prop := i.wellFormed = true ∧ encode i = w

section
variable {w : Word} {i : Instr}

theorem hasWord_of_decodeGroup0 (h : decodeGroup0 w = .ok i) : i.HasWord w := by
  unfold decodeGroup0 at h
  split at h <;> cases h <;> exact ⟨rfl, (BitVec.eq_of_toNat_eq ‹_›).symm⟩

theorem hasWord_of_decodeGroup5 (hop : (fieldOP w).toNat = 5) (h : decodeGroup5 w = .ok i) : i.HasWord w := by
  unfold decodeGroup5 at h
  split at h <;> cases h
  exact ⟨rfl, wordREGREG_fields hop ‹_›⟩

theorem hasWord_of_decodeGroup8 (hop : (fieldOP w).toNat = 8) (h : decodeGroup8 w = .ok i) : i.HasWord w := by
  unfold decodeGroup8 at h
  split at h <;> cases h <;> exact ⟨rfl, wordREGREG_fields hop ‹_›⟩

theorem hasWord_of_decodeGroup9 (hop : (fieldOP w).toNat = 9) (h : decodeGroup9 w = .ok i) : i.HasWord w := by
  unfold decodeGroup9 at h
  split at h <;> cases h
  exact ⟨rfl, wordREGREG_fields hop ‹_›⟩

theorem hasWord_of_decodeGroupE (hop : (fieldOP w).toNat = 14) (h : decodeGroupE w = .ok i) : i.HasWord w := by
  unfold decodeGroupE at h
  split at h <;> cases h <;> exact ⟨rfl, wordREG_fields hop ‹_›⟩

theorem hasWord_of_decodeGroupF (hop : (fieldOP w).toNat = 15) (h : decodeGroupF w = .ok i) : i.HasWord w := by
  unfold decodeGroupF at h
  split at h <;> cases h <;> exact ⟨rfl, wordREG_fields hop ‹_›⟩

/-- DRW's height is decoded from a nibble, so it is in range and encoded whole (R61). -/
theorem hasWord_drw (hop : (fieldOP w).toNat = 13) :
    (Instr.drw (fieldX w) (fieldY w) (fieldN w).toNat).HasWord w :=
  ⟨decide_eq_true (fieldN w).isLt, wordREGREG_fields hop (by rw [BitVec.ofNat_toNat, BitVec.setWidth_eq])⟩

/-- A decoded instruction is well-formed, and its word is the word decoded. -/
theorem hasWord_of_decodeWord (h : decodeWord w = .ok i) : i.HasWord w := by
  unfold decodeWord at h
  split at h
  case h_1 => exact hasWord_of_decodeGroup0 h
  case h_6 hop => exact hasWord_of_decodeGroup5 hop h
  case h_9 hop => exact hasWord_of_decodeGroup8 hop h
  case h_10 hop => exact hasWord_of_decodeGroup9 hop h
  case h_15 hop => exact hasWord_of_decodeGroupE hop h
  case h_16 hop => exact hasWord_of_decodeGroupF hop h
  case h_14 hop => cases h; exact hasWord_drw hop
  case h_4 hop | h_5 hop | h_7 hop | h_8 hop | h_13 hop => cases h; exact ⟨rfl, wordREGIMM_fields hop⟩
  case h_2 hop | h_3 hop | h_11 hop | h_12 hop => cases h; exact ⟨rfl, wordADDR_fields hop⟩
  case h_17 => cases h

end

/-! ### The rows of the opcode map -/

section
variable {w p : Word}

theorem fieldOP_of_selects_F000 (h : (OpcodeRow.mk 0xF000 p).selects w = true) :
    (fieldOP w).toNat = p.toNat / 4096 := by
  have hw := (selects_F000 w p).mp h
  rw [fieldOP_toNat]
  omega

theorem fields_of_selects_F00F (h : (OpcodeRow.mk 0xF00F p).selects w = true) :
    (fieldOP w).toNat = p.toNat / 4096 ∧ (fieldN w).toNat = p.toNat % 16 := by
  have hw := (selects_F00F w p).mp h
  rw [fieldOP_toNat, fieldN_toNat]
  omega

theorem fields_of_selects_F0FF (h : (OpcodeRow.mk 0xF0FF p).selects w = true) :
    (fieldOP w).toNat = p.toNat / 4096 ∧ (fieldNN w).toNat = p.toNat % 256 := by
  have hw := (selects_F0FF w p).mp h
  rw [fieldOP_toNat, fieldNN_toNat]
  omega

/-- A word that selects the row of some instruction is not rejected: the mask's fields are those the decoder matches on. -/
theorem decodeWord_ne_error_of_selects {i : Instr} (h : (rowOf i).selects w = true) (r : Reject) :
    decodeWord w ≠ .error r := by
  cases i with
  | cls | ret =>
    rw [show w = _ from BitVec.eq_of_toNat_eq ((selects_FFFF w _).mp h)]
    exact nofun
  | jp nnn | call nnn | ldI nnn | jpV0 nnn => simp [decodeWord, fieldOP_of_selects_F000 h]
  | seImm x nn | sneImm x nn | ldImm x nn | addImm x nn | rnd x nn => simp [decodeWord, fieldOP_of_selects_F000 h]
  | drw x y n => simp [decodeWord, fieldOP_of_selects_F000 h]
  | seReg x y | sneReg x y =>
    obtain ⟨hop, hn⟩ := fields_of_selects_F00F h
    simp [decodeWord, decodeGroup5, decodeGroup9, hop, hn]
  | ldReg x y | orReg x y | andReg x y | xorReg x y | addReg x y | subReg x y | shr x y | subnReg x y | shl x y =>
    obtain ⟨hop, hn⟩ := fields_of_selects_F00F h
    simp [decodeWord, decodeGroup8, hop, hn]
  | skp x | sknp x =>
    obtain ⟨hop, hnn⟩ := fields_of_selects_F0FF h
    simp [decodeWord, decodeGroupE, hop, hnn]
  | ldVxDT x | ldVxK x | ldDT x | ldST x | addI x | ldF x | ldB x | stRegs x | ldRegs x =>
    obtain ⟨hop, hnn⟩ := fields_of_selects_F0FF h
    simp [decodeWord, decodeGroupF, hop, hnn]

/-- One instruction for each row of the opcode map, in the order of the rows. -/
def rowInstrs : List Instr :=
  [.cls, .ret, .jp 0, .call 0, .seImm 0 0, .sneImm 0 0, .seReg 0 0, .ldImm 0 0, .addImm 0 0, .ldReg 0 0, .orReg 0 0,
   .andReg 0 0, .xorReg 0 0, .addReg 0 0, .subReg 0 0, .shr 0 0, .subnReg 0 0, .shl 0 0, .sneReg 0 0, .ldI 0, .jpV0 0,
   .rnd 0 0, .drw 0 0 0, .skp 0, .sknp 0, .ldVxDT 0, .ldVxK 0, .ldDT 0, .ldST 0, .addI 0, .ldF 0, .ldB 0, .stRegs 0,
   .ldRegs 0]

theorem opcodeRows_eq_map_rowOf : opcodeRows = rowInstrs.map rowOf := rfl

/-- Every row is the row of an instruction. -/
theorem exists_rowOf_eq {r : OpcodeRow} (h : r ∈ opcodeRows) : ∃ i, rowOf i = r := by
  rw [opcodeRows_eq_map_rowOf] at h
  obtain ⟨i, -, hi⟩ := List.mem_map.mp h
  exact ⟨i, hi⟩

/-- The word of an instruction selects the instruction's row and no other. -/
theorem selects_encode_iff (i : Instr) {r : OpcodeRow} (h : r ∈ opcodeRows) :
    r.selects (encode i) = true ↔ r = rowOf i :=
  ⟨fun hr => selects_unique h (rowOf_mem i) hr (rowOf_selects i), fun hr => hr ▸ rowOf_selects i⟩

/-- A rejected word selects no row. -/
theorem selects_eq_false_of_decodeWord_error {e : Reject} (h : decodeWord w = .error e) {r : OpcodeRow}
    (hr : r ∈ opcodeRows) : r.selects w = false := by
  obtain ⟨i, rfl⟩ := exists_rowOf_eq hr
  exact Bool.eq_false_iff.mpr fun hsel => decodeWord_ne_error_of_selects hsel e h

/-- A word that selects no row is rejected, as an unknown opcode (R67). -/
theorem decodeWord_error_of_selects_eq_false (h : ∀ r ∈ opcodeRows, r.selects w = false) :
    decodeWord w = .error (.unknownOpcode w) := by
  cases hd : decodeWord w with
  | error e => rw [Machine.decodeWord_error hd]
  | ok i =>
    obtain ⟨-, rfl⟩ := hasWord_of_decodeWord hd
    exact absurd (rowOf_selects i) (by simp [h (rowOf i) (rowOf_mem i)])

end

/-! ### The obligations -/

/-- Settles O1: each word is evaluated. -/
theorem listedWordsDecode : Obligations.ListedWordsDecode := by
  unfold Obligations.ListedWordsDecode
  decide

/-- Settles O2: the bytes of the encoded word make the word again, and it decodes to the instruction. -/
theorem decodeOfEncodeIsInstruction : Obligations.DecodeOfEncodeIsInstruction := by
  intro i rest hwf
  have hbytes := decode_bytesOfWord (encode i) rest
  rwa [decodeWord_encode hwf] at hbytes

/-- Settles O3, group by group of the decoder. -/
theorem encodeOfDecodeIsWord : Obligations.EncodeOfDecodeIsWord := fun _ _ h => hasWord_of_decodeWord h

/-- Settles O4: a decoded word is the word of its instruction, which selects that instruction's row alone. -/
theorem decodesExactlyTheOpcodeMap : Obligations.DecodesExactlyTheOpcodeMap := by
  intro w
  cases hd : decodeWord w with
  | ok i =>
    obtain ⟨-, rfl⟩ := hasWord_of_decodeWord hd
    exact .inl ⟨i, rfl, fun r hr => selects_encode_iff i hr⟩
  | error e =>
    have he : e = .unknownOpcode w := Machine.decodeWord_error hd
    exact .inr ⟨by rw [he], fun r hr => selects_eq_false_of_decodeWord_error hd hr⟩

end Sys2Proof
end

section
/-! Proofs of spec/50_cycle.md, spec/60_exceptions.md and spec/70_reset_and_hazards.md: what one step does, move by move and
mode by mode, and what a reset leaves. -/

namespace Sys2Proof.Machine

open Sys2Proof.Config

variable {s t : State}

/-! ### One step, by the host's move and the mode -/

theorem step_instructionTick (h : s.nextMove = .instructionTick) : step s = instructionCycle s.afterMove := by
  rw [step, h]; rfl

theorem step_timerTick (h : s.nextMove = .timerTick) : step s = .next s.afterMove.timerTick := by
  rw [step, h]; rfl

theorem step_reset {rom : List Byte} (h : s.nextMove = .reset rom) : step s = .next (s.afterMove.resetWith rom) := by
  rw [step, h]; rfl

theorem instructionCycle_ok {i : Instr} (hm : s.mode = .running) (h : decodeWord s.fetchWord = .ok i) :
    instructionCycle s = exec i s := by
  simp only [instructionCycle, hm, h]

theorem instructionCycle_error {r : Reject} (hm : s.mode = .running) (h : decodeWord s.fetchWord = .error r) :
    instructionCycle s = .next (s.raise .unknownOpcode s.fetchWord) := by
  simp only [instructionCycle, hm, h]

theorem instructionCycle_awaitingKey {x : RegNum} (hm : s.mode = .awaitingKey x) :
    instructionCycle s = .next (s.awaitKeyCycle x) := by
  simp only [instructionCycle, hm]

theorem instructionCycle_halted (hm : s.mode = .halted) : instructionCycle s = .next s := by
  simp only [instructionCycle, hm]

/-- A running engine whose fetched word selects no row halts on it (R186). -/
theorem step_of_unknownWord (hm : s.mode = .running) (hn : s.nextMove = .instructionTick)
    (hw : ∀ r ∈ opcodeRows, r.selects s.fetchWord = false) :
    step s = .next (s.afterMove.raise .unknownOpcode s.fetchWord) := by
  have hd : decodeWord s.afterMove.fetchWord = .error (.unknownOpcode s.fetchWord) :=
    decodeWord_error_of_selects_eq_false hw
  exact (step_instructionTick hn).trans (instructionCycle_error (s := s.afterMove) hm hd)

theorem step_awaitingKey {x : RegNum} (hm : s.mode = .awaitingKey x) (hn : s.nextMove = .instructionTick) :
    step s = .next (s.afterMove.awaitKeyCycle x) :=
  (step_instructionTick hn).trans (instructionCycle_awaitingKey (s := s.afterMove) hm)

/-! ### Whether every instruction and every step answers -/

theorem exec_answers (i : Instr) (s : State) : ∃ t, exec i s = .next t := by
  cases i with
  | ret => exact ⟨_, (apply_dite Host.Outcome.next _ _ _).symm⟩
  | call nnn => exact ⟨_, (apply_dite Host.Outcome.next _ _ _).symm⟩
  | _ => exact ⟨_, rfl⟩

theorem instructionCycle_answers (s : State) : ∃ t, instructionCycle s = .next t := by
  cases hm : s.mode with
  | running =>
    cases hd : decodeWord s.fetchWord with
    | ok i => exact instructionCycle_ok hm hd ▸ exec_answers i s
    | error r => exact ⟨_, instructionCycle_error hm hd⟩
  | awaitingKey x => exact ⟨_, instructionCycle_awaitingKey hm⟩
  | halted => exact ⟨_, instructionCycle_halted hm⟩

theorem step_answers (s : State) : ∃ t, step s = .next t := by
  cases hn : s.nextMove with
  | instructionTick => exact step_instructionTick hn ▸ instructionCycle_answers s.afterMove
  | timerTick => exact ⟨_, step_timerTick hn⟩
  | setKeys levels => exact ⟨_, by rw [step, hn]; rfl⟩
  | reset rom => exact ⟨_, step_reset hn⟩

/-! ### The cycle, the timer tick, the key wait, the halt -/

/-- Settles O5: the two bytes decode as the word they make, which is the word fetched. -/
theorem stepRunsDecodedInstruction : Obligations.StepRunsDecodedInstruction := by
  intro s i hm hn hd
  have hword : (decodeWord s.fetchWord).map (fun j => (j, ([] : List Byte))) = .ok (i, []) := hd
  cases hdw : decodeWord s.fetchWord with
  | error r => rw [hdw] at hword; cases hword
  | ok j =>
    rw [hdw] at hword
    cases hword
    exact (step_instructionTick hn).trans (instructionCycle_ok (s := s.afterMove) hm hdw)

/-- Settles O6: such a word is rejected, and the cycle raises the error. -/
theorem unknownWordHalts : Obligations.UnknownWordHalts := fun _ hm hn hw => step_of_unknownWord hm hn hw

/-- Settles O7: with no fresh key the search finds none; otherwise it finds the least one. -/
theorem awaitingKeyCycle : Obligations.AwaitingKeyCycle := by
  intro s x hm hn
  have hfresh : ∀ k : KeyNum, (s.keys.getLsbD k.val = true → s.prev.getLsbD k.val = true) →
      s.afterMove.keyFresh k = false := fun k hk => by
    rw [← Bool.not_eq_true, keyFresh_iff]
    rintro ⟨hdown, hprev⟩
    exact Bool.false_ne_true (hprev.symm.trans (hk hdown))
  rw [step_awaitingKey hm hn]
  refine ⟨fun hold => ?_, fun j hdown hprev hleast => ?_⟩
  · have hnone : s.afterMove.firstFreshKey = none := (firstFreshKey_eq_none _).mpr fun k => hfresh k (hold k)
    rw [State.awaitKeyCycle, hnone]
    rfl
  · have hsome : s.afterMove.firstFreshKey = some j :=
      firstFreshKey_eq_some _ ((keyFresh_iff _ j).mpr ⟨hdown, hprev⟩) fun k hk => hfresh k (hleast k hk)
    have hcycle : s.afterMove.awaitKeyCycle x =
        ((s.afterMove.latchKeys.setReg x (BitVec.ofNat 8 j.val)).advance).setMode .running := by
      rw [State.awaitKeyCycle, hsome]
    refine ⟨_, congrArg _ hcycle, rfl, fun k => ?_, wrap12_toNat _⟩
    have hj : (BitVec.ofNat 8 j.val).toNat = j.val := Nat.mod_eq_of_lt (by omega)
    simp only [setMode_reg, advance_reg, setReg_reg, latchKeys_reg, afterMove_reg, apply_ite BitVec.toNat, hj]

/-- Settles O8: the cycle of a halted engine answers the state it is given. -/
theorem haltedTickChangesNothing : Obligations.HaltedTickChangesNothing := fun s hm hn =>
  (step_instructionTick hn).trans (instructionCycle_halted (s := s.afterMove) hm)

/-- Settles O9: each timer counts down, which is a truncated subtraction. -/
theorem timerTickCountsDown : Obligations.TimerTickCountsDown := fun s hn =>
  ⟨s.afterMove.timerTick, step_timerTick hn, rfl, countDown_toNat s.dt, countDown_toNat s.st⟩

theorem run_succ_of_step {n : Nat} (h : step s = .next t) :
    Sys2Proof.core.run (n + 1) s = Sys2Proof.core.run n t := by
  have hstep : Sys2Proof.core.step s = .next t := h
  simp only [Host.Core.run, hstep]

/-- Settles O10, by induction on the number of ticks: the first lowers the timers by one, the rest by the number less one. -/
theorem timerTicksRunDown : Obligations.TimerTicksRunDown := by
  intro n
  induction n with
  | zero =>
    intro s ms hs
    have hms : s.schedule = ms := hs
    exact ⟨s, rfl, by rw [← hms], rfl, rfl⟩
  | succ n ih =>
    intro s ms hs
    have hsched : s.schedule = .timerTick :: (List.replicate n .timerTick ++ ms) := hs
    have hn : s.nextMove = .timerTick := by rw [State.nextMove, hsched]
    have htail : s.afterMove.timerTick.schedule = List.replicate n .timerTick ++ ms := by
      rw [timerTick_schedule, afterMove_schedule, hsched, List.tail_cons]
    obtain ⟨t, hrun, hframe, hdt, hst⟩ := ih s.afterMove.timerTick ms htail
    refine ⟨t, (run_succ_of_step (step_timerTick hn)).trans hrun, hframe, ?_, ?_⟩
    · rw [hdt, timerTick_dt, afterMove_dt, countDown_toNat, Nat.sub_sub, Nat.add_comm 1 n]
    · rw [hst, timerTick_st, afterMove_st, countDown_toNat, Nat.sub_sub, Nat.add_comm 1 n]

/-- Settles O11: a tick of a halted engine changes nothing, and the other two moves change timers and keys. -/
theorem onlyResetLeavesHalted : Obligations.OnlyResetLeavesHalted := by
  intro s t hm hn h
  rcases step_cases h with ⟨-, htick⟩ | ⟨-, rfl⟩ | ⟨ks, -, rfl⟩ | ⟨rom, hreset, -⟩
  · cases htick.symm.trans (instructionCycle_halted (s := s.afterMove) hm)
    rfl
  · rfl
  · rfl
  · exact absurd hreset (hn rom)

/-- Settles O17: the two stack instructions answer in both of their branches, and every other has one. -/
theorem everyInstructionAnswers : Obligations.EveryInstructionAnswers := ⟨exec_answers, step_answers⟩

/-! ### Reset -/

/-- The byte at an address is what the list of memory, or the background, holds there. -/
theorem readByte_of_lt {a : Nat} (h : a < 0x1000) : s.readByte a = Memory.read s.params s.mem a := by
  rw [State.readByte, Nat.mod_eq_of_lt h]

/-- With nothing listed an address from 0x200 on reads as zero: the font table ends below it (R5). -/
theorem unlistedByte_from_romBase {p : Params} {a : Nat} (h : 0x200 ≤ a) : unlistedByte p a = 0 :=
  unlistedByte_eq_zero (.inr (by omega))

/-- Memory after a ROM is loaded into an empty list: the ROM from 0x200 on, the background elsewhere (R215). -/
theorem read_load_rom (p : Params) (rom : List Byte) (a : Nat) :
    Memory.read p (Memory.load p [] 0x200 rom) a =
      if 0x200 ≤ a then (rom[a - 0x200]?).getD (unlistedByte p a) else unlistedByte p a := read_load rom

/-- Settles O12: each clause reads the loaded memory at an address of its own region. -/
theorem resetLoadsRom : Obligations.ResetLoadsRom := by
  intro s rom hlen hn
  have hread : ∀ a, a < 0x1000 → (s.afterMove.resetWith rom).readByte a =
      if 0x200 ≤ a then (rom[a - 0x200]?).getD (unlistedByte s.params a) else unlistedByte s.params a := fun a ha => by
    rw [resetWith_accepted _ hlen, readByte_of_lt ha]
    exact read_load_rom s.params rom a
  refine ⟨_, step_reset hn, by rw [resetWith_accepted _ hlen]; rfl, fun j hj => ?_, fun a hlo hhi => ?_, fun j hj => ?_,
    fun a ha hfont => ?_⟩
  · rw [hread _ (by omega), if_pos (by omega), Nat.add_sub_cancel_left, List.getElem?_eq_getElem hj, Option.getD_some]
  · rw [hread a hhi, if_pos (by omega), List.getElem?_eq_none (by omega), Option.getD_none,
      unlistedByte_from_romBase (by omega)]
  · rw [hread _ (by omega), if_neg (by omega), unlistedByte_font hj]
  · rw [hread a (by omega), if_neg (by omega), unlistedByte_eq_zero hfont]

/-- Settles O13: the list of memory stays empty, so the ROM's region reads as the background. -/
theorem resetRejectsLongRom : Obligations.ResetRejectsLongRom := by
  intro s rom hlen hn
  rw [step_reset hn, resetWith_rejected _ hlen]
  refine ⟨_, rfl, rfl, rfl, fun a hlo hhi => ?_⟩
  rw [readByte_of_lt hhi]
  exact unlistedByte_from_romBase hlo

@[simp] theorem reset_reg (k : RegNum) : State.reset.reg k = 0 := by
  simp only [State.reg, State.reset, Vector.getElem_replicate]

/-- Settles O14: the framebuffer is the clear one, and memory reads as the background of the default parameters. -/
theorem resetStateValues : Obligations.ResetStateValues :=
  ⟨reset_reg, rfl, rfl, rfl, rfl, rfl, pixel_clear, rfl, rfl, rfl, rfl, rfl, fun _ ha => readByte_of_lt ha⟩

/-- Settles O15: nothing is listed in memory, no stack entry is in use, and there is no error. -/
theorem resetMeetsInvariant : Obligations.ResetMeetsInvariant where
  memCanonical := nil_wf
  pcInMemory := by decide
  iInMemory := by decide
  stackInMemory := fun k hk => absurd hk (Nat.not_lt_zero k.val)
  haltedIffError := by decide
  errorAtPc := fun h => absurd rfl h
  recordClear := fun _ => ⟨rfl, rfl⟩

end Sys2Proof.Machine
end

section
/-! What an executed instruction can do to the state, said once (spec/10_state.md): a handful of families, each with the
fields it writes. The whole-machine rules over all instructions are read off it. -/

namespace Sys2Proof.Machine

variable {s t : State} {i : Instr}

/-! ### The remaining instructions as writes of the state -/

@[simp] theorem exec_jpV0 (s : State) (nnn : BitVec 12) :
    exec (.jpV0 nnn) s = .next (s.setPc (nnn.toNat + (s.reg 0).toNat)) := rfl

@[simp] theorem exec_skp (s : State) (x : RegNum) :
    exec (.skp x) s = .next (s.skipIf (s.keyDown (keyIndex (s.reg x)))) := rfl

@[simp] theorem exec_sknp (s : State) (x : RegNum) :
    exec (.sknp x) s = .next (s.skipIf (!s.keyDown (keyIndex (s.reg x)))) := rfl

@[simp] theorem exec_ldReg (s : State) (x y : RegNum) : exec (.ldReg x y) s = .next (s.setReg x (s.reg y)).advance := rfl

@[simp] theorem exec_addReg (s : State) (x y : RegNum) :
    exec (.addReg x y) s = .next (s.setRegAndFlag x (addBytes (s.reg x) (s.reg y))
      (flagByte (carryOut (s.reg x) (s.reg y)))).advance := rfl

@[simp] theorem exec_subReg (s : State) (x y : RegNum) :
    exec (.subReg x y) s = .next (s.setRegAndFlag x (subBytes (s.reg x) (s.reg y))
      (flagByte (noBorrow (s.reg x) (s.reg y)))).advance := rfl

@[simp] theorem exec_subnReg (s : State) (x y : RegNum) :
    exec (.subnReg x y) s = .next (s.setRegAndFlag x (subBytes (s.reg y) (s.reg x))
      (flagByte (noBorrow (s.reg y) (s.reg x)))).advance := rfl

@[simp] theorem exec_shr (s : State) (x y : RegNum) :
    exec (.shr x y) s = .next (s.setRegAndFlag x (shiftRight s.params.shrFill (s.reg x))
      (flagByte (shiftedOutRight (s.reg x)))).advance := rfl

@[simp] theorem exec_shl (s : State) (x y : RegNum) :
    exec (.shl x y) s = .next (s.setRegAndFlag x (shiftLeft (s.reg x))
      (flagByte (shiftedOutLeft (s.reg x)))).advance := rfl

@[simp] theorem exec_rnd (s : State) (x : RegNum) (nn : Byte) :
    exec (.rnd x nn) s = .next (s.consumeRandom.setReg x (s.randomByte &&& nn)).advance := rfl

@[simp] theorem exec_ldF (s : State) (x : RegNum) :
    exec (.ldF x) s = .next (s.setI (glyphAddress s.params (s.reg x))).advance := rfl

@[simp] theorem exec_stRegs (s : State) (x : RegNum) :
    exec (.stRegs x) s = .next (s.storeRegs (regsUpTo x)).advance := rfl

@[simp] theorem exec_ldRegs (s : State) (x : RegNum) :
    exec (.ldRegs x) s = .next (s.loadRegs (regsUpTo x)).advance := rfl

@[simp] theorem exec_ldDT (s : State) (x : RegNum) : exec (.ldDT x) s = .next (s.setDt (s.reg x)).advance := rfl

@[simp] theorem exec_ldST (s : State) (x : RegNum) : exec (.ldST x) s = .next (s.setSt (s.reg x)).advance := rfl

@[simp] theorem exec_ldVxK (s : State) (x : RegNum) :
    exec (.ldVxK x) s = .next (s.latchKeys.setMode (.awaitingKey x)) := rfl

theorem exec_call_of_room (h : s.sp.val < 16) (nnn : BitVec 12) :
    exec (.call nnn) s = .next ((s.push (wrap12 (s.pc.toNat + 2)) h).setPc nnn.toNat) := dif_pos h

theorem exec_call_of_full (h : s.sp = 16) (nnn : BitVec 12) :
    exec (.call nnn) s = .next (s.raise .stackOverflow (encode (.call nnn))) := dif_neg (by simp [h])

theorem exec_ret_of_entry (h : 0 < s.sp.val) : exec .ret s = .next (s.pop.setPc (s.stackTop h).toNat) := dif_pos h

theorem exec_ret_of_empty (h : s.sp = 0) : exec .ret s = .next (s.raise .stackUnderflow (encode .ret)) :=
  dif_neg (by simp [h])

/-! ### The families -/

/-- What the instruction `i` can make of the state `s`. -/
inductive Effect (s : State) : Instr → State → Prop
  /-- Jumps, skips, and every instruction that computes a register: V, pc and the random source. -/
  | compute (i : Instr) (v : Vector Byte 16) (n : Nat) (rs : List Byte) (d : Nat) :
      Effect s i { s with v := v, pc := wrap12 n, random := rs, draws := d }
  | cls (f : Frame) (n : Nat) : Effect s .cls { s with fb := f, pc := wrap12 n }
  | drw (x y : RegNum) (h : Nat) (v : Vector Byte 16) (f : Frame) (n : Nat) :
      Effect s (.drw x y h) { s with v := v, fb := f, pc := wrap12 n }
  | index (i : Instr) (hi : (∃ nnn, i = .ldI nnn) ∨ (∃ x, i = .addI x) ∨ ∃ x, i = .ldF x) (a n : Nat) :
      Effect s i { s with i := wrap12 a, pc := wrap12 n }
  | store (i : Instr) (x : RegNum) (hi : i = .ldB x ∨ i = .stRegs x) (m : Memory)
      (hm : Memory.wf s.params s.mem → Memory.wf s.params m) (n : Nat) : Effect s i { s with mem := m, pc := wrap12 n }
  | ldDT (x : RegNum) (b : Byte) (n : Nat) : Effect s (.ldDT x) { s with dt := b, pc := wrap12 n }
  | ldST (x : RegNum) (b : Byte) (n : Nat) : Effect s (.ldST x) { s with st := b, pc := wrap12 n }
  | ldVxK (x : RegNum) : Effect s (.ldVxK x) { s with prev := s.keys, mode := .awaitingKey x }
  | callWithRoom (nnn : BitVec 12) (h : s.sp.val < 16) :
      Effect s (.call nnn) ((s.push (wrap12 (s.pc.toNat + 2)) h).setPc nnn.toNat)
  | callWhenFull (nnn : BitVec 12) (h : s.sp = 16) : Effect s (.call nnn) (s.raise .stackOverflow (encode (.call nnn)))
  | retWithEntry (h : 0 < s.sp.val) : Effect s .ret (s.pop.setPc (s.stackTop h).toNat)
  | retWhenEmpty (h : s.sp = 0) : Effect s .ret (s.raise .stackUnderflow (encode .ret))

/-- The three writes of LD B keep memory canonical. -/
theorem storeDigits_wf (s : State) (b : Byte) (h : Memory.wf s.params s.mem) :
    Memory.wf s.params (s.storeDigits b).mem :=
  have hlt : ∀ k, s.dataAddress k % 0x1000 < 0x1000 := fun _ => Nat.mod_lt _ (by decide)
  write_wf (write_wf (write_wf h (hlt 0)) (hlt 1)) (hlt 2)

/-- Every instruction does what its family can do. -/
theorem exec_effect (h : exec i s = .next t) : Effect s i t := by
  cases i with
  | ret =>
    obtain ⟨hs, rfl⟩ | ⟨hs, rfl⟩ := exec_ret_cases h
    · exact .retWithEntry hs
    · exact .retWhenEmpty hs
  | call nnn =>
    obtain ⟨hs, rfl⟩ | ⟨hs, rfl⟩ := exec_call_cases h
    · exact .callWithRoom nnn hs
    · exact .callWhenFull nnn hs
  | cls => cases h; exact .cls _ _
  | drw x y n => cases h; exact .drw x y n _ _ _
  | ldI nnn => cases h; exact .index _ (.inl ⟨_, rfl⟩) _ _
  | addI x => cases h; exact .index _ (.inr (.inl ⟨_, rfl⟩)) _ _
  | ldF x => cases h; exact .index _ (.inr (.inr ⟨_, rfl⟩)) _ _
  | ldB x => cases h; exact .store _ x (.inl rfl) _ (storeDigits_wf s _) _
  | stRegs x =>
    cases h
    rw [storeRegs_eq]
    exact .store _ x (.inr rfl) _ (storeRegs_wf s _) _
  | ldDT x => cases h; exact .ldDT x _ _
  | ldST x => cases h; exact .ldST x _ _
  | ldVxK x => cases h; exact .ldVxK x
  | ldRegs x =>
    cases h
    rw [loadRegs_eq]
    exact .compute _ _ _ _ _
  | _ => cases h; exact .compute _ _ _ _ _

/-! ### What a family leaves alone -/

theorem Effect.fb_writer (h : Effect s i t) (hne : t.fb ≠ s.fb) : i = .cls ∨ ∃ x y n, i = .drw x y n := by
  cases h with
  | cls => exact .inl rfl
  | drw x y n => exact .inr ⟨x, y, n, rfl⟩
  | _ => exact absurd rfl hne

theorem Effect.mem_writer (h : Effect s i t) (hne : t.mem ≠ s.mem) : ∃ x, i = .ldB x ∨ i = .stRegs x := by
  cases h with
  | store _ x hi => exact ⟨x, hi⟩
  | _ => exact absurd rfl hne

theorem Effect.i_writer (h : Effect s i t) (hne : t.i ≠ s.i) :
    (∃ nnn, i = .ldI nnn) ∨ (∃ x, i = .addI x) ∨ ∃ x, i = .ldF x := by
  cases h with
  | index _ hi => exact hi
  | _ => exact absurd rfl hne

theorem Effect.stk_writer (h : Effect s i t) (hne : t.stk ≠ s.stk) : ∃ nnn, i = .call nnn := by
  cases h with
  | callWithRoom nnn => exact ⟨nnn, rfl⟩
  | _ => exact absurd rfl hne

theorem Effect.sp_writer (h : Effect s i t) (hne : t.sp ≠ s.sp) : (∃ nnn, i = .call nnn) ∨ i = .ret := by
  cases h with
  | callWithRoom nnn => exact .inl ⟨nnn, rfl⟩
  | retWithEntry => exact .inr rfl
  | _ => exact absurd rfl hne

theorem Effect.dt_writer (h : Effect s i t) (hne : t.dt ≠ s.dt) : ∃ x, i = .ldDT x := by
  cases h with
  | ldDT x => exact ⟨x, rfl⟩
  | _ => exact absurd rfl hne

theorem Effect.st_writer (h : Effect s i t) (hne : t.st ≠ s.st) : ∃ x, i = .ldST x := by
  cases h with
  | ldST x => exact ⟨x, rfl⟩
  | _ => exact absurd rfl hne

theorem Effect.prev_writer (h : Effect s i t) (hne : t.prev ≠ s.prev) : ∃ x, i = .ldVxK x := by
  cases h with
  | ldVxK x => exact ⟨x, rfl⟩
  | _ => exact absurd rfl hne

theorem Effect.params_schedule (h : Effect s i t) : t.params = s.params ∧ t.schedule = s.schedule := by
  cases h <;> exact ⟨rfl, rfl⟩

theorem Effect.record_kept (h : Effect s i t) (hret : i ≠ .ret) (hcall : ∀ nnn, i ≠ .call nnn)
    (hwait : ∀ x, i ≠ .ldVxK x) :
    t.mode = s.mode ∧ t.errKind = s.errKind ∧ t.errPc = s.errPc ∧ t.errOpcode = s.errOpcode := by
  cases h with
  | ldVxK x => exact absurd rfl (hwait x)
  | callWithRoom nnn => exact absurd rfl (hcall nnn)
  | callWhenFull nnn => exact absurd rfl (hcall nnn)
  | retWithEntry => exact absurd rfl hret
  | retWhenEmpty => exact absurd rfl hret
  | _ => exact ⟨rfl, rfl, rfl, rfl⟩

/-- An instruction keeps the mode and the error record, or begins a key wait, or raises one of the two stack errors. -/
theorem exec_record_cases (h : exec i s = .next t) :
    (t.mode = s.mode ∧ t.errKind = s.errKind ∧ t.errPc = s.errPc ∧ t.errOpcode = s.errOpcode ∧
      (∀ x, i ≠ .ldVxK x) ∧ (i = .ret → s.sp ≠ 0) ∧ ((∃ nnn, i = .call nnn) → s.sp ≠ 16)) ∨
    (∃ x, i = .ldVxK x ∧ t = s.latchKeys.setMode (.awaitingKey x)) ∨
    (i = .ret ∧ s.sp = 0 ∧ t = s.raise .stackUnderflow (encode .ret)) ∨
    (∃ nnn, i = .call nnn ∧ s.sp = 16 ∧ t = s.raise .stackOverflow (encode (.call nnn))) := by
  cases i with
  | ret =>
    obtain ⟨hs, rfl⟩ | hempty := exec_ret_cases h
    · exact .inl ⟨rfl, rfl, rfl, rfl, nofun, fun _ h0 => by simp [h0] at hs, nofun⟩
    · exact .inr (.inr (.inl ⟨rfl, hempty⟩))
  | call nnn =>
    obtain ⟨hs, rfl⟩ | hfull := exec_call_cases h
    · exact .inl ⟨rfl, rfl, rfl, rfl, nofun, nofun, fun _ h16 => by simp [h16] at hs⟩
    · exact .inr (.inr (.inr ⟨nnn, rfl, hfull⟩))
  | ldVxK x => exact .inr (.inl ⟨x, rfl, (Host.Outcome.next.inj h).symm⟩)
  | _ =>
    obtain ⟨hmode, hkind, hpc, hopcode⟩ := (exec_effect h).record_kept nofun nofun nofun
    exact .inl ⟨hmode, hkind, hpc, hopcode, nofun, nofun, nofun⟩

end Sys2Proof.Machine
end

section
/-! Proofs of the whole-machine rules over all instructions and all steps: the invariant, pc, and which instructions change
what. -/

namespace Sys2Proof.Machine

variable {s t : State} {i : Instr}

/-! ### One step that is no reset and runs no instruction -/

/-- A waiting or halted cycle, an unknown word, a timer tick and a change of the keys leave memory, the framebuffer and the
parameters, and take one move off the schedule; the two other kinds of step are a reset and an executed instruction. -/
theorem step_keeps_or_resets_or_executes (h : step s = .next t) :
    (t.mem = s.mem ∧ t.fb = s.fb ∧ t.params = s.params ∧ t.schedule = s.schedule.tail) ∨
    (∃ rom, s.nextMove = .reset rom ∧ t = s.afterMove.resetWith rom) ∨
    (s.mode = .running ∧ s.nextMove = .instructionTick ∧
      ∃ i, decodeWord s.fetchWord = .ok i ∧ exec i s.afterMove = .next t) := by
  rcases step_cases h with ⟨hn, htick⟩ | ⟨-, rfl⟩ | ⟨ks, -, rfl⟩ | hreset
  · rcases instructionCycle_cases htick with ⟨-, rfl⟩ | ⟨x, -, rfl⟩ | ⟨hm, i, hd, hexec⟩ | ⟨-, -, rfl⟩
    · exact .inl ⟨rfl, rfl, rfl, rfl⟩
    · rcases awaitKeyCycle_cases s.afterMove x with ⟨-, hc⟩ | ⟨j, -, hc⟩ <;> rw [hc] <;> exact .inl ⟨rfl, rfl, rfl, rfl⟩
    · exact .inr (.inr ⟨hm, hn, i, hd, hexec⟩)
    · exact .inl ⟨rfl, rfl, rfl, rfl⟩
  · exact .inl ⟨rfl, rfl, rfl, rfl⟩
  · exact .inl ⟨rfl, rfl, rfl, rfl⟩
  · exact .inr (.inl hreset)

theorem resetWith_params_schedule (s : State) (rom : List Byte) :
    (s.resetWith rom).params = s.params ∧ (s.resetWith rom).schedule = s.schedule := by
  by_cases hlen : rom.length ≤ 0xE00
  · rw [resetWith_accepted s hlen]; exact ⟨rfl, rfl⟩
  · rw [resetWith_rejected s (by omega)]; exact ⟨rfl, rfl⟩

/-! ### Which instructions change what -/

/-- Settles O20: of the instructions only CLS and DRW have the framebuffer among their writes. -/
theorem framebufferWriters : Obligations.FramebufferWriters := by
  intro s t h hne
  rcases step_keeps_or_resets_or_executes h with ⟨-, hfb, -⟩ | ⟨rom, hreset, -⟩ | ⟨hm, hn, i, hd, hexec⟩
  · exact absurd hfb hne
  · exact .inl ⟨rom, hreset⟩
  · rcases (exec_effect hexec).fb_writer hne with rfl | ⟨x, y, n, rfl⟩
    · exact .inr ⟨hm, hn, .inl hd⟩
    · exact .inr ⟨hm, hn, .inr ⟨x, y, n, hd⟩⟩

/-- Settles O21: where memory and parameters are the same, every byte reads the same; of the instructions only the two stores
have memory among their writes. -/
theorem memoryWriters : Obligations.MemoryWriters := by
  rintro s t h ⟨a, hne⟩
  have hmem : t.params = s.params → t.mem ≠ s.mem := fun hp hm => hne (readByte_congr hm hp a)
  rcases step_keeps_or_resets_or_executes h with ⟨hm, -, hp, -⟩ | ⟨rom, hreset, -⟩ | ⟨hm, hn, i, hd, hexec⟩
  · exact absurd hm (hmem hp)
  · exact .inl ⟨rom, hreset⟩
  · have heffect := exec_effect hexec
    obtain ⟨x, rfl | rfl⟩ := heffect.mem_writer (hmem heffect.params_schedule.1)
    · exact .inr ⟨hm, hn, x, .inl hd⟩
    · exact .inr ⟨hm, hn, x, .inr hd⟩

/-- Settles O22, register by register. -/
theorem specialRegisterWriters : Obligations.SpecialRegisterWriters := by
  intro i s t h
  have heffect := exec_effect h
  exact ⟨heffect.i_writer, heffect.stk_writer, heffect.sp_writer, heffect.dt_writer, heffect.st_writer, heffect.prev_writer⟩

/-- Settles O23: the key wait and the two stack errors are read off the state they give. -/
theorem modeAndErrorWriters : Obligations.ModeAndErrorWriters := by
  intro i s t hm h
  rcases exec_record_cases h with ⟨hmode, hrest⟩ | ⟨x, hi, rfl⟩ | ⟨hi, hsp, rfl⟩ | ⟨nnn, hi, hsp, rfl⟩
  · exact .inl ⟨hmode.trans hm, hrest⟩
  · exact .inr (.inl ⟨x, hi, rfl, rfl, rfl, rfl⟩)
  · exact .inr (.inr (.inl ⟨hi, hsp, rfl, rfl⟩))
  · exact .inr (.inr (.inr ⟨nnn, hi, hsp, rfl, rfl⟩))

/-- Settles O24: no executed instruction writes either, and a reset keeps both. -/
theorem stepKeepsParameters : Obligations.StepKeepsParameters := by
  intro s t h
  rcases step_keeps_or_resets_or_executes h with ⟨-, -, hkept⟩ | ⟨rom, -, rfl⟩ | ⟨-, -, i, -, hexec⟩
  · exact hkept
  · exact resetWith_params_schedule s.afterMove rom
  · exact (exec_effect hexec).params_schedule

/-- Settles O25: of the instructions only the two stack errors halt, and their word is the word that was fetched. -/
theorem errorsArePrecise : Obligations.ErrorsArePrecise := by
  intro s t hm hn h hhalt
  rw [step_instructionTick hn] at h
  have hrun : s.afterMove.mode = .running := hm
  rcases instructionCycle_cases h with ⟨hm', -⟩ | ⟨x, hm', -⟩ | ⟨-, i, hd, hexec⟩ | ⟨-, hd, rfl⟩
  · rw [hrun] at hm'; cases hm'
  · rw [hrun] at hm'; cases hm'
  · have hword : encode i = s.fetchWord := (hasWord_of_decodeWord hd).2
    rcases exec_record_cases hexec with ⟨hmode, -⟩ | ⟨x, -, rfl⟩ | ⟨rfl, hsp, rfl⟩ | ⟨nnn, rfl, hsp, rfl⟩
    · rw [hmode, hrun] at hhalt; cases hhalt
    · cases hhalt
    · rw [hword]; exact ⟨rfl, .inr (.inr ⟨rfl, hsp, hd⟩)⟩
    · rw [hword]; exact ⟨rfl, .inr (.inl ⟨rfl, hsp, nnn, hd⟩)⟩
  · exact ⟨rfl, .inl ⟨rfl, hd⟩⟩

/-! ### The general registers -/

theorem advance_setReg_reg_same (x : RegNum) (b : Byte) : (s.setReg x b).advance.reg x = b :=
  (setReg_reg s x b x).trans (if_pos rfl)

theorem advance_setReg_reg_of_ne {x k : RegNum} (b : Byte) (h : ¬ k = x) : (s.setReg x b).advance.reg k = s.reg k :=
  (setReg_reg s x b k).trans (if_neg h)

theorem advance_setRegAndFlag_reg_of_ne {x k : RegNum} (r f : Byte) (h : ¬ (k = x ∨ k = 15)) :
    (s.setRegAndFlag x r f).advance.reg k = s.reg k := by
  obtain ⟨hx, hf⟩ := not_or.mp h
  exact (setRegAndFlag_reg s x r f k).trans ((if_neg hf).trans (if_neg hx))

@[simp] theorem storeRegs_reg (ks : List RegNum) (k : RegNum) : (s.storeRegs ks).reg k = s.reg k := by
  rw [storeRegs_eq]; rfl

@[simp] theorem storeRegs_pc (ks : List RegNum) : (s.storeRegs ks).pc = s.pc := by rw [storeRegs_eq]

@[simp] theorem loadRegs_pc (ks : List RegNum) : (s.loadRegs ks).pc = s.pc := by rw [loadRegs_eq]

/-- What LD Vx,[I] leaves in a register (R125). -/
theorem loadRegs_regsUpTo_reg (s : State) (x k : RegNum) :
    (s.loadRegs (regsUpTo x)).reg k = if k ≤ x then s.readByte (s.dataAddress k.val) else s.reg k := by
  simp only [loadRegs_reg, mem_regsUpTo]

/-- Settles O19, by the registers each instruction writes. -/
theorem registersWrittenByInstructions : Obligations.RegistersWrittenByInstructions := by
  intro i s t k h hk
  cases i with
  | ldImm x nn | addImm x nn => cases h; exact advance_setReg_reg_of_ne _ hk
  | ldReg x y | orReg x y | andReg x y | xorReg x y => cases h; exact advance_setReg_reg_of_ne _ hk
  | rnd x nn => cases h; exact advance_setReg_reg_of_ne (s := s.consumeRandom) _ hk
  | ldVxDT x => cases h; exact advance_setReg_reg_of_ne _ hk
  | addReg x y | subReg x y | shr x y | subnReg x y | shl x y => cases h; exact advance_setRegAndFlag_reg_of_ne _ _ hk
  | drw x y n => cases h; exact advance_setReg_reg_of_ne (s := s.setFb (s.drawn x y n).1) _ hk
  | ldRegs x =>
    cases h
    exact (loadRegs_regsUpTo_reg s x k).trans (if_neg hk)
  | stRegs x => cases h; exact storeRegs_reg _ k
  | ret => rcases exec_ret_cases h with ⟨hs, rfl⟩ | ⟨-, rfl⟩ <;> rfl
  | call nnn => rcases exec_call_cases h with ⟨hs, rfl⟩ | ⟨-, rfl⟩ <;> rfl
  | _ => cases h; rfl

/-! ### pc -/

theorem advance_pc_toNat (s : State) : s.advance.pc.toNat = (s.pc.toNat + 2) % 0x1000 := wrap12_toNat _

theorem skipIf_pc_toNat {c : Bool} {p : Prop} [Decidable p] (hc : c = true ↔ p) :
    (s.skipIf c).pc.toNat = skipTarget s p := by
  simp only [skipIf_pc, wrap12_toNat, skipTarget, hc]

/-- pc after an instruction, by the ways an instruction can write it. -/
theorem exec_pc_toNat (h : exec i s = .next t) : t.pc.toNat = pcAfter s i := by
  cases i with
  | ret =>
    rcases exec_ret_cases h with ⟨hs, rfl⟩ | ⟨hs, rfl⟩
    · have hne : s.sp ≠ 0 := fun h0 => by simp [h0] at hs
      have hentry : s.stk[s.sp.val - 1]? = some (s.stackTop hs) := Vector.getElem?_eq_getElem _
      rw [pcAfter, if_neg hne, hentry]
      exact wrap12_toNat _
    · exact (if_pos hs).symm
  | call nnn =>
    rcases exec_call_cases h with ⟨hs, rfl⟩ | ⟨hs, rfl⟩
    · have hne : s.sp ≠ 16 := fun h16 => by simp [h16] at hs
      exact (wrap12_toNat _).trans ((Nat.mod_eq_of_lt nnn.isLt).trans (if_neg hne).symm)
    · exact (if_pos hs).symm
  | jp nnn => cases h; exact (wrap12_toNat _).trans (Nat.mod_eq_of_lt nnn.isLt)
  | jpV0 nnn => cases h; exact wrap12_toNat _
  | seImm x nn => cases h; exact skipIf_pc_toNat beq_iff_eq
  | seReg x y => cases h; exact skipIf_pc_toNat beq_iff_eq
  | sneImm x nn => cases h; exact skipIf_pc_toNat bne_iff_ne
  | sneReg x y => cases h; exact skipIf_pc_toNat bne_iff_ne
  | skp x => cases h; exact skipIf_pc_toNat Iff.rfl
  | sknp x => cases h; exact skipIf_pc_toNat (by rw [Bool.not_eq_true']; exact Iff.rfl)
  | ldVxK x => cases h; rfl
  | stRegs x => cases h; rw [advance_pc_toNat, storeRegs_pc]; rfl
  | ldRegs x => cases h; rw [advance_pc_toNat, loadRegs_pc]; rfl
  | _ => cases h; exact advance_pc_toNat _

/-- Settles O18: an unknown word raises an error, which leaves pc; the key wait ends or goes on. -/
theorem pcAfterEveryInstruction : Obligations.PcAfterEveryInstruction := by
  refine ⟨fun i s t => exec_pc_toNat, fun s t hm hn hw h => ?_, fun s t x hm hn h => ?_⟩
  · rw [step_of_unknownWord hm hn hw] at h
    cases h
    rfl
  · rw [step_awaitingKey hm hn] at h
    cases h
    rcases awaitKeyCycle_cases s.afterMove x with ⟨-, hc⟩ | ⟨j, -, hc⟩ <;> rw [hc]
    · exact .inr ⟨hm, rfl⟩
    · exact .inl ⟨rfl, wrap12_toNat _⟩

end Sys2Proof.Machine
end

section
/-! Proofs of the invariant of spec/10_state.md, kept by every step, and of the canonical form of memory. -/

namespace Sys2Proof.Machine

open Sys2Proof.Config

variable {s t : State} {i : Instr}

/-! ### The invariant, by kind of state -/

/-- The invariant says nothing of the timers, the keys and the schedule. -/
theorem State.Inv.with_timers_and_inputs (hs : s.Inv) (dt st : Byte) (keys : BitVec 16) (schedule : List HostMove) :
    State.Inv { s with dt := dt, st := st, keys := keys, schedule := schedule } :=
  ⟨hs.memCanonical, hs.pcInMemory, hs.iInMemory, hs.stackInMemory, hs.haltedIffError, hs.errorAtPc, hs.recordClear⟩

/-- In a state that meets the invariant and is not halted the error record is clear. -/
theorem State.Inv.record_of_not_halted (hs : s.Inv) (hm : s.mode ≠ .halted) :
    s.errKind = .none ∧ s.errPc = 0 ∧ s.errOpcode = 0 :=
  have hkind : s.errKind = .none := not_not.mp fun he => hm (hs.haltedIffError.mpr he)
  ⟨hkind, hs.recordClear (.inl hkind)⟩

/-- A state that is not halted meets the invariant when its addresses and its memory do and its error record is clear. -/
theorem inv_of_not_halted (hmem : Memory.wf t.params t.mem) (hpc : t.pc.toNat < 0x1000) (hi : t.i.toNat < 0x1000)
    (hstk : ∀ k : Fin 16, k.val < t.sp.val → (t.stk[k.val]).toNat < 0x1000) (hm : t.mode ≠ .halted)
    (hrecord : t.errKind = .none ∧ t.errPc = 0 ∧ t.errOpcode = 0) : t.Inv := by
  obtain ⟨hkind, hclear⟩ := hrecord
  exact ⟨hmem, hpc, hi, hstk, iff_of_false hm (not_not.mpr hkind), fun he => absurd hkind he, fun _ => hclear⟩

/-- Raising a runtime error keeps the invariant (R190, R191). -/
theorem State.Inv.raise (hs : s.Inv) {e : ErrorKind} (w : Word) (hnone : e ≠ .none) (hrom : e ≠ .romTooLarge) :
    (s.raise e w).Inv :=
  ⟨hs.memCanonical, hs.pcInMemory, hs.iInMemory, hs.stackInMemory, iff_of_true rfl hnone, fun _ _ => rfl,
    fun he => (he.elim hnone hrom).elim⟩

/-! ### The invariant, move by move -/

/-- The entries in use after a push are those before it and the pushed one. -/
theorem push_stackInMemory (hs : s.Inv) (h : s.sp.val < 16) (n : Nat) (k : Fin 16)
    (hk : k.val < (s.push (wrap12 n) h).sp.val) : ((s.push (wrap12 n) h).stk[k.val]).toNat < 0x1000 := by
  have hk' : k.val < s.sp.val + 1 := hk
  simp only [push_stk, Vector.getElem_set]
  split
  · exact wrap12_lt n
  · exact hs.stackInMemory k (by omega)

/-- An executed instruction keeps the invariant: it writes pc and I reduced, memory canonical, and pushes a reduced pc. -/
theorem Effect.inv (h : Effect s i t) (hs : s.Inv) (hm : s.mode = .running) : t.Inv := by
  have hrun : s.mode ≠ .halted := by simp [hm]
  have hrecord := hs.record_of_not_halted hrun
  cases h with
  | compute | cls | drw | ldDT | ldST =>
    exact inv_of_not_halted hs.memCanonical (wrap12_lt _) hs.iInMemory hs.stackInMemory hrun hrecord
  | index => exact inv_of_not_halted hs.memCanonical (wrap12_lt _) (wrap12_lt _) hs.stackInMemory hrun hrecord
  | store _ x _ m hwf =>
    exact inv_of_not_halted (hwf hs.memCanonical) (wrap12_lt _) hs.iInMemory hs.stackInMemory hrun hrecord
  | ldVxK x => exact inv_of_not_halted hs.memCanonical hs.pcInMemory hs.iInMemory hs.stackInMemory nofun hrecord
  | callWithRoom nnn hroom =>
    exact inv_of_not_halted hs.memCanonical (wrap12_lt _) hs.iInMemory (push_stackInMemory hs hroom _) hrun hrecord
  | retWithEntry hentry =>
    have hstk : ∀ k : Fin 16, k.val < s.sp.val - 1 → (s.stk[k.val]).toNat < 0x1000 := fun k hk =>
      hs.stackInMemory k (by omega)
    exact inv_of_not_halted hs.memCanonical (wrap12_lt _) hs.iInMemory hstk hrun hrecord
  | callWhenFull => exact hs.raise _ nofun nofun
  | retWhenEmpty => exact hs.raise _ nofun nofun

theorem State.Inv.awaitKeyCycle (hs : s.Inv) {x : RegNum} (hm : s.mode = .awaitingKey x) : (s.awaitKeyCycle x).Inv := by
  have hwait : s.mode ≠ .halted := by simp [hm]
  have hrecord := hs.record_of_not_halted hwait
  rcases awaitKeyCycle_cases s x with ⟨-, hc⟩ | ⟨j, -, hc⟩ <;> rw [hc]
  · exact inv_of_not_halted hs.memCanonical hs.pcInMemory hs.iInMemory hs.stackInMemory hwait hrecord
  · exact inv_of_not_halted hs.memCanonical (wrap12_lt _) hs.iInMemory hs.stackInMemory nofun hrecord

theorem instructionCycle_inv (hs : s.Inv) (h : instructionCycle s = .next t) : t.Inv := by
  rcases instructionCycle_cases h with ⟨-, rfl⟩ | ⟨x, hm, rfl⟩ | ⟨hm, i, -, hexec⟩ | ⟨-, -, rfl⟩
  · exact hs
  · exact hs.awaitKeyCycle hm
  · exact (exec_effect hexec).inv hs hm
  · exact hs.raise _ nofun nofun

/-- A reset gives a state that meets the invariant, whatever the state before it and the ROM (R215, R216). -/
theorem resetWith_inv (s : State) (rom : List Byte) : (s.resetWith rom).Inv := by
  have hreset : State.reset.Inv := resetMeetsInvariant
  by_cases hlen : rom.length ≤ 0xE00
  · rw [resetWith_accepted s hlen]
    exact inv_of_not_halted (load_wf rom nil_wf (by omega)) hreset.pcInMemory hreset.iInMemory hreset.stackInMemory nofun
      ⟨rfl, rfl, rfl⟩
  · rw [resetWith_rejected s (by omega)]
    exact ⟨nil_wf, hreset.pcInMemory, hreset.iInMemory, hreset.stackInMemory, iff_of_true rfl nofun,
      fun _ hrom => absurd rfl hrom, fun _ => ⟨rfl, rfl⟩⟩

/-- Settles O16, move by move of the host. -/
theorem stepKeepsInvariant : Obligations.StepKeepsInvariant := by
  intro s t hs h
  have hafter : s.afterMove.Inv := hs.with_timers_and_inputs _ _ _ _
  rcases step_cases h with ⟨-, htick⟩ | ⟨-, rfl⟩ | ⟨ks, -, rfl⟩ | ⟨rom, -, rfl⟩
  · exact instructionCycle_inv hafter htick
  · exact hafter.with_timers_and_inputs _ _ _ _
  · exact hafter.with_timers_and_inputs _ _ _ _
  · exact resetWith_inv s.afterMove rom

/-! ### Canonical memories -/

/-- The order of a canonical memory's entries. -/
abbrev addressLT (c d : Host.Cell) : Prop := c.1 < d.1

/-- In a list whose addresses rise an entry is in the list exactly when its address looks up to its byte. -/
theorem lookup_eq_some_iff_mem {m : Memory} (h : m.Pairwise addressLT) {a : Nat} {b : Byte} :
    Memory.lookup a m = some b ↔ (a, b) ∈ m := by
  induction m with
  | nil => simp [Memory.lookup]
  | cons e m ih =>
    obtain ⟨k, c⟩ := e
    obtain ⟨hlt, hm⟩ := List.pairwise_cons.mp h
    simp only [Memory.lookup, List.mem_cons, Prod.mk.injEq]
    split
    · subst_vars
      have hnotin : (k, b) ∉ m := fun hin => lt_irrefl k (hlt _ hin)
      simp [hnotin, eq_comm]
    · rename_i hne
      simp [ih hm, Ne.symm hne]

/-- What an address looks up to in a canonical memory is decided by what it reads as. -/
theorem lookup_eq_some_iff_read {p : Params} {m : Memory} (h : Memory.wf p m) {a : Nat} {b : Byte} :
    Memory.lookup a m = some b ↔ Memory.read p m a = b ∧ b ≠ unlistedByte p a ∧ a < 0x1000 := by
  constructor
  · intro hl
    obtain ⟨hlt, -⟩ := h.2 (a, b) ((lookup_eq_some_iff_mem h.1).mp hl)
    exact ⟨by rw [Memory.read, hl, Option.getD_some], lookup_ne_unlisted h hl, hlt⟩
  · rintro ⟨hread, hne, -⟩
    cases hl : Memory.lookup a m with
    | none => rw [Memory.read, hl, Option.getD_none] at hread; exact absurd hread.symm hne
    | some c => rw [Memory.read, hl, Option.getD_some] at hread; rw [hread]

/-- Settles O27: the two lists have the same entries, and both are in rising order. -/
theorem canonicalMemoriesAreEqual : Obligations.CanonicalMemoriesAreEqual := by
  intro p m m' h h' hread
  have hirrefl : Std.Irrefl addressLT := ⟨fun c => lt_irrefl c.1⟩
  have hantisymm : Std.Antisymm addressLT := ⟨fun c d hcd hdc => absurd hcd (lt_asymm hdc)⟩
  refine List.Pairwise.eq_of_mem_iff h.1 h'.1 fun ⟨a, b⟩ => ?_
  rw [← lookup_eq_some_iff_mem h.1, ← lookup_eq_some_iff_mem h'.1, lookup_eq_some_iff_read h, lookup_eq_some_iff_read h']
  constructor
  · rintro ⟨hr, hne, ha⟩
    exact ⟨(hread a ha).symm.trans hr, hne, ha⟩
  · rintro ⟨hr, hne, ha⟩
    exact ⟨(hread a ha).trans hr, hne, ha⟩

end Sys2Proof.Machine
end

section
/-! Proofs of the rules instruction by instruction: spec/40_flow.md, spec/41_alu.md, spec/42_index_memory.md and
spec/44_keypad_timers.md, and what an instruction reads of the inputs (spec/50_cycle.md R174, R175). -/

namespace Sys2Proof.Machine

open Sys2Proof.Config

variable {s t : State} {i : Instr}

/-! ### Control flow -/

theorem sp_pos_of_ne_zero (h : s.sp ≠ 0) : 0 < s.sp.val := Nat.pos_of_ne_zero fun h0 => h (Fin.ext h0)

theorem sp_lt_of_ne_full (h : s.sp ≠ 16) : s.sp.val < 16 := by
  have hne : s.sp.val ≠ 16 := fun h16 => h (Fin.ext h16)
  omega

/-- The word of CALL, by its fields (R187). -/
theorem encode_call (nnn : BitVec 12) : encode (.call nnn) = 0x2000 ||| nnn.setWidth 16 := by
  apply BitVec.eq_of_toNat_eq
  have hlt : nnn.toNat < 2 ^ 12 := nnn.isLt
  have hor : (0x2000 : Word).toNat ||| nnn.toNat = 2 ^ 12 * 2 + nnn.toNat := (Nat.two_pow_add_eq_or_of_lt hlt 2).symm
  rw [encode, wordADDR_toNat, BitVec.toNat_or, BitVec.toNat_setWidth, Nat.mod_eq_of_lt (by omega), hor]
  rfl

/-- The entry pushed is the entry popped next. -/
theorem stackTop_push (w : Word) (h : s.sp.val < 16) (h' : 0 < (s.push w h).sp.val) : (s.push w h).stackTop h' = w :=
  Vector.getElem_set_self _

/-- Settles O29: RET with an entry in use takes the first branch. -/
theorem retPopsIntoPc : Obligations.RetPopsIntoPc := by
  intro s hs
  have hentry := sp_pos_of_ne_zero hs
  exact ⟨_, exec_ret_of_entry hentry, rfl, fun _ => rfl, Nat.sub_add_cancel hentry, s.stackTop hentry,
    Vector.getElem?_eq_getElem _, wrap12_toNat _⟩

/-- Settles O30: the recorded word is the instruction's own. -/
theorem stackErrorsHalt : Obligations.StackErrorsHalt := by
  refine fun s => ⟨fun hs => exec_ret_of_empty hs, fun hs nnn => ?_⟩
  rw [exec_call_of_full hs, encode_call]
  rfl

/-- Settles O32: the push writes the entry at SP and no other. -/
theorem callPushesAndJumps : Obligations.CallPushesAndJumps := by
  intro s nnn hs
  have hroom := sp_lt_of_ne_full hs
  have hpc : nnn.toNat % 0x1000 = nnn.toNat := Nat.mod_eq_of_lt nnn.isLt
  refine ⟨_, exec_call_of_room hroom nnn, rfl, fun _ => rfl, rfl, (wrap12_toNat _).trans hpc, fun k => ?_⟩
  rw [setPc_stk, push_stk, Vector.getElem_set, apply_ite BitVec.toNat, wrap12_toNat]
  simp only [eq_comm]

/-- Settles O33: RET pops the entry that CALL pushed, and the entries below it are untouched. -/
theorem retAfterCallResumes : Obligations.RetAfterCallResumes := by
  intro s nnn hs
  have hroom := sp_lt_of_ne_full hs
  have hentry : 0 < ((s.push (wrap12 (s.pc.toNat + 2)) hroom).setPc nnn.toNat).sp.val := Nat.succ_pos s.sp.val
  have htop : State.stackTop _ hentry = wrap12 (s.pc.toNat + 2) := stackTop_push _ hroom hentry
  refine ⟨_, _, exec_call_of_room hroom nnn, exec_ret_of_entry hentry, ?_, rfl, fun k hk => ?_⟩
  · rw [pcMoved, setPc_pc, htop, wrap12_toNat, wrap12_toNat, Nat.mod_mod]
  · exact Vector.getElem_set_ne hroom _ (by omega)

/-- Settles O34: the sum is reduced by the write of pc. -/
theorem jpV0AddsOffset : Obligations.JpV0AddsOffset := fun s nnn => exec_setPc_frame (exec_jpV0 s nnn)

/-- Settles O37: the key tested is the one that the low nibble numbers; SKNP skips when it is up. -/
theorem skipsOnKey : Obligations.SkipsOnKey := by
  intro s x
  refine ⟨exec_skipIf_frame (exec_skp s x), ?_⟩
  have hskip := exec_skipIf_frame (exec_sknp s x)
  simp only [Bool.not_eq_true', ← Bool.not_eq_true, ite_not] at hskip
  exact hskip

/-! ### Registers and flags -/

/-- An instruction that writes a register and the flag, and advances, changes nothing else; the flag is written last
(R108). -/
theorem exec_setRegAndFlag_frame {x : RegNum} {r f : Byte} (h : exec i s = .next (s.setRegAndFlag x r f).advance) :
    ∃ t, exec i s = .next t ∧ onlyVPc s t ∧ pcMoved s t 2 ∧
      ∀ k : RegNum, t.reg k = if k = 15 then f else if k = x then r else s.reg k :=
  ⟨(s.setRegAndFlag x r f).advance, h, ⟨rfl, fun _ => rfl⟩, wrap12_toNat (s.pc.toNat + 2), setRegAndFlag_reg s x r f⟩

/-- The same, register by register as numbers. -/
theorem exec_setRegAndFlag_frame_toNat {x : RegNum} {r f : Byte} (h : exec i s = .next (s.setRegAndFlag x r f).advance) :
    ∃ t, exec i s = .next t ∧ onlyVPc s t ∧ pcMoved s t 2 ∧
      ∀ k : RegNum, (t.reg k).toNat = if k = 15 then f.toNat else if k = x then r.toNat else (s.reg k).toNat := by
  obtain ⟨t, hexec, hframe, hpc, hreg⟩ := exec_setRegAndFlag_frame h
  refine ⟨t, hexec, hframe, hpc, fun k => ?_⟩
  rw [hreg k, apply_ite BitVec.toNat, apply_ite BitVec.toNat]

theorem flagByte_carryOut_toNat (a b : Byte) :
    (flagByte (carryOut a b)).toNat = if a.toNat + b.toNat > 255 then 1 else 0 := by
  simp only [flagByte_toNat, carryOut, decide_eq_true_eq]

theorem flagByte_noBorrow_toNat (a b : Byte) :
    (flagByte (noBorrow a b)).toNat = if a.toNat ≥ b.toNat then 1 else 0 := by
  simp only [flagByte_toNat, noBorrow, decide_eq_true_eq]

theorem shiftRight_toNat (f : ShrFill) (a : Byte) :
    (shiftRight f a).toNat = a.toNat / 2 + if f = .sign ∧ 128 ≤ a.toNat then 128 else 0 := by
  cases f with
  | zero => simp [shiftRight_zero_toNat]
  | sign => simp [shiftRight_sign_toNat]

/-- SUB and SUBN, with minuend `a` and subtrahend `b`: the difference modulo 256, and VF 1 when there is no borrow. -/
theorem exec_subBytes_frame {x : RegNum} {a b : Byte}
    (h : exec i s = .next (s.setRegAndFlag x (subBytes a b) (flagByte (noBorrow a b))).advance) :
    ∃ t, exec i s = .next t ∧ onlyVPc s t ∧ pcMoved s t 2 ∧
      ∀ k : RegNum, ((t.reg k).toNat : Int) =
        if k = 15 then (if a.toNat ≥ b.toNat then 1 else 0)
        else if k = x then ((a.toNat : Int) - b.toNat) % 256 else (s.reg k).toNat := by
  obtain ⟨t, hexec, hframe, hpc, hreg⟩ := exec_setRegAndFlag_frame_toNat h
  refine ⟨t, hexec, hframe, hpc, fun k => ?_⟩
  rw [hreg k, flagByte_noBorrow_toNat]
  simp only [Nat.cast_ite, Nat.cast_one, Nat.cast_zero, subBytes_toNat]

/-- Settles O40: the value written is V[Y]. -/
theorem ldRegCopies : Obligations.LdRegCopies := fun s x y => exec_setReg_frame (exec_ldReg s x y)

/-- Settles O42: the sum is reduced, the carry is on the exact sum. -/
theorem addRegSumAndCarry : Obligations.AddRegSumAndCarry := by
  intro s x y
  simpa only [flagByte_carryOut_toNat, addBytes_toNat] using exec_setRegAndFlag_frame_toNat (exec_addReg s x y)

/-- Settles O43: the minuend is V[X]. -/
theorem subRegDifferenceAndNoBorrow : Obligations.SubRegDifferenceAndNoBorrow := fun s x y =>
  exec_subBytes_frame (exec_subReg s x y)

/-- Settles O44: the minuend is V[Y]. -/
theorem subnRegReversesOperands : Obligations.SubnRegReversesOperands := fun s x y =>
  exec_subBytes_frame (exec_subnReg s x y)

/-- Settles O45: the value and the flag of each shift, as numbers. -/
theorem shiftsByOne : Obligations.ShiftsByOne := by
  intro s x y
  constructor
  · simpa only [shiftedOutRight_toNat, shiftRight_toNat] using exec_setRegAndFlag_frame_toNat (exec_shr s x y)
  · simpa only [shiftedOutLeft_toNat, shiftLeft_toNat] using exec_setRegAndFlag_frame_toNat (exec_shl s x y)

/-- The next random byte is the head of the list, and the free value once the list is used up (R31). -/
theorem randomByte_eq {b : Byte} (h : s.random.head? = some b ∨ (s.random = [] ∧ b = Config.randomByte s.draws)) :
    s.randomByte = b := by
  rcases h with hhead | ⟨hnil, rfl⟩
  · obtain ⟨bs, hbs⟩ := List.head?_eq_some_iff.mp hhead
    rw [State.randomByte, hbs]
  · rw [State.randomByte, hnil]

/-- Settles O46: the byte masked is the next random one. -/
theorem rndMasksRandomByte : Obligations.RndMasksRandomByte := by
  intro s x nn b hb
  refine ⟨_, exec_rnd s x nn, rfl, fun _ => rfl, wrap12_toNat _, fun k => ?_⟩
  rw [advance_reg, setReg_reg, consumeRandom_reg, randomByte_eq hb]

/-! ### Index register and memory -/

/-- Settles O48: the glyph's address is below 0x1000, so the reduction of the written I leaves it as it is. -/
theorem ldFPointsAtGlyph : Obligations.LdFPointsAtGlyph := by
  intro s x
  have hlt : s.params.fontBase.val + 5 * ((s.reg x).toNat % 16) < 0x1000 := by omega
  simpa only [glyphAddress, Nat.mod_eq_of_lt hlt] using exec_setI_frame (exec_ldF s x)

theorem storeRegs_regsUpTo_readByte {x k : RegNum} (hk : k ≤ x) {a : Nat} (ha : a % 0x1000 = s.dataAddress k.val) :
    (s.storeRegs (regsUpTo x)).readByte a = s.reg k :=
  (storeRegs_readByte s _ (regsUpTo_nodup x) a).1 k ((mem_regsUpTo x k).mpr hk) ha

theorem storeRegs_regsUpTo_readByte_of_ne {x : RegNum} {a : Nat} (ha : ∀ k, k ≤ x.val → a % 0x1000 ≠ s.dataAddress k) :
    (s.storeRegs (regsUpTo x)).readByte a = s.readByte a :=
  (storeRegs_readByte s _ (regsUpTo_nodup x) a).2 fun k hk => ha k.val ((mem_regsUpTo x k).mp hk)

@[simp] theorem storeRegs_dataAddress (ks : List RegNum) (k : Nat) : (s.storeRegs ks).dataAddress k = s.dataAddress k := by
  rw [storeRegs_eq]; rfl

/-- Settles O50: each address of the dump holds its register, and any other what it held. -/
theorem stRegsStoresRegisters : Obligations.StRegsStoresRegisters := by
  intro s x
  refine ⟨_, exec_stRegs s x, ?_, ?_, fun k hk => ?_, fun a ha => ?_⟩
  · rw [storeRegs_eq]; rfl
  · rw [pcMoved, advance_pc_toNat, storeRegs_pc]
  · exact storeRegs_regsUpTo_readByte hk (dataAddress_mod s k.val)
  · exact storeRegs_regsUpTo_readByte_of_ne ha

/-- Settles O51: the load changes V only, and reads each register's byte. -/
theorem ldRegsLoadsRegisters : Obligations.LdRegsLoadsRegisters := by
  intro s x
  refine ⟨_, exec_ldRegs s x, ⟨?_, fun a => ?_⟩, ?_, fun k => ?_⟩
  · rw [loadRegs_eq]; rfl
  · rw [loadRegs_eq]; rfl
  · rw [pcMoved, advance_pc_toNat, loadRegs_pc]
  · rw [advance_reg, loadRegs_regsUpTo_reg, dataAddress_eq, readByte_mod]

/-- Settles O52: the load reads each register's byte where the dump stored it, at the same I. -/
theorem loadAfterDumpRestores : Obligations.LoadAfterDumpRestores := by
  intro s x v'
  refine ⟨_, _, exec_stRegs s x, exec_ldRegs _ x, fun k hk => ?_⟩
  rw [advance_reg, loadRegs_regsUpTo_reg, if_pos hk]
  exact storeRegs_regsUpTo_readByte hk ((dataAddress_mod _ k.val).trans (storeRegs_dataAddress _ k.val))

/-- Settles O28: the next instruction's two bytes are the first two bytes of the dump. -/
theorem storedWordIsFetched : Obligations.StoredWordIsFetched := by
  intro s t x hx hi h
  cases h
  have hpc : (s.storeRegs (regsUpTo x)).advance.pc.toNat = (s.pc.toNat + 2) % 0x1000 := by
    rw [advance_pc_toNat, storeRegs_pc]
  have h0 : (s.pc.toNat + 2) % 0x1000 % 0x1000 = s.dataAddress 0 := by rw [dataAddress_eq]; omega
  have h1 : ((s.pc.toNat + 2) % 0x1000 + 1) % 0x1000 = s.dataAddress 1 := by rw [dataAddress_eq]; omega
  have hx0 : (0 : RegNum) ≤ x := Fin.zero_le x
  have hx1 : (1 : RegNum) ≤ x := hx
  rw [fetchWord_eq, hpc, advance_readByte, advance_readByte, storeRegs_regsUpTo_readByte hx0 h0,
    storeRegs_regsUpTo_readByte hx1 h1]

/-! ### Keypad and timers -/

/-- Settles O58: SOUND is read off ST. -/
theorem timersAreSet : Obligations.TimersAreSet := fun s x =>
  ⟨⟨_, exec_ldDT s x, rfl, fun _ => rfl, wrap12_toNat _⟩,
   ⟨_, exec_ldST s x, rfl, fun _ => rfl, wrap12_toNat _, decide_eq_true_iff⟩⟩

/-- Settles O59: WAITING is read off the mode. -/
theorem ldVxKBeginsWait : Obligations.LdVxKBeginsWait := fun s x =>
  ⟨_, exec_ldVxK s x, rfl, fun _ => rfl, rfl⟩

/-! ### What an instruction reads of the inputs -/

/-- The state with its key levels and its random source replaced, each by a function of itself. -/
def State.mapInputs (s : State) (f : BitVec 16 → BitVec 16) (g : List Byte → List Byte) (e : Nat → Nat) : State :=
  { s with keys := f s.keys, random := g s.random, draws := e s.draws }

section
variable (f : BitVec 16 → BitVec 16) (g : List Byte → List Byte) (e : Nat → Nat)

theorem storeRegs_mapInputs (s : State) (ks : List RegNum) :
    (s.mapInputs f g e).storeRegs ks = (s.storeRegs ks).mapInputs f g e := by
  induction ks generalizing s with
  | nil => rfl
  | cons k ks ih => exact ih (s.writeByte (s.dataAddress k.val) (s.reg k))

theorem loadRegs_mapInputs (s : State) (ks : List RegNum) :
    (s.mapInputs f g e).loadRegs ks = (s.loadRegs ks).mapInputs f g e := by
  induction ks generalizing s with
  | nil => rfl
  | cons k ks ih => exact ih (s.setReg k (s.readByte (s.dataAddress k.val)))

/-- An instruction other than SKP, SKNP, LD Vx,K and RND does not look at the inputs. -/
theorem exec_mapInputs (h : exec i s = .next t) (hskp : ∀ x, i ≠ .skp x) (hsknp : ∀ x, i ≠ .sknp x)
    (hwait : ∀ x, i ≠ .ldVxK x) (hrnd : ∀ x nn, i ≠ .rnd x nn) :
    exec i (s.mapInputs f g e) = .next (t.mapInputs f g e) := by
  cases i with
  | skp x => exact absurd rfl (hskp x)
  | sknp x => exact absurd rfl (hsknp x)
  | ldVxK x => exact absurd rfl (hwait x)
  | rnd x nn => exact absurd rfl (hrnd x nn)
  | ret =>
    rcases exec_ret_cases h with ⟨hs, rfl⟩ | ⟨hs, rfl⟩
    · exact exec_ret_of_entry (s := s.mapInputs f g e) hs
    · exact exec_ret_of_empty (s := s.mapInputs f g e) hs
  | call nnn =>
    rcases exec_call_cases h with ⟨hs, rfl⟩ | ⟨hs, rfl⟩
    · exact exec_call_of_room (s := s.mapInputs f g e) hs nnn
    · exact exec_call_of_full (s := s.mapInputs f g e) hs nnn
  | stRegs x => cases h; rw [exec_stRegs, storeRegs_mapInputs]; rfl
  | ldRegs x => cases h; rw [exec_ldRegs, loadRegs_mapInputs]; rfl
  | _ => cases h; rfl

end

/-- Settles O26: RND reads no key, and the three key instructions no random byte. -/
theorem inputsReadOnlyWhereSaid : Obligations.InputsReadOnlyWhereSaid := by
  refine fun i s t h => ⟨fun hskp hsknp hwait ks => ?_, fun hrnd rs d => ?_⟩
  · cases i with
    | rnd x nn => cases h; rfl
    | _ => exact exec_mapInputs (fun _ => ks) id id h hskp hsknp hwait nofun
  · cases i with
    | skp x | sknp x | ldVxK x => cases h; rfl
    | _ => exact exec_mapInputs id (fun _ => rs) (fun _ => d) h nofun nofun nofun hrnd

end Sys2Proof.Machine
end

section
/-! Proofs of spec/43_display.md, section 2: what DRW does to each pixel, and that a second draw undoes the first. -/

namespace Sys2Proof.Machine

/-- Covering depends on the sprite's bytes, its place and the edge policy only. -/
theorem spriteCovers_congr {s t : State} {x y : RegNum} {n : Nat} (hbyte : ∀ a, t.readByte a = s.readByte a)
    (hi : t.i = s.i) (hp : t.params = s.params) (hx : (t.reg x).toNat % 64 = (s.reg x).toNat % 64)
    (hy : (t.reg y).toNat % 32 = (s.reg y).toNat % 32) (py px : Nat) :
    t.spriteCovers x y n py px ↔ s.spriteCovers x y n py px := by
  simp only [State.spriteCovers, hbyte, hi, hp, hx, hy]

/-- Drawing the sprite again where it was drawn gives back every pixel: a covered one is flipped twice. -/
theorem drawn_drawn_fb {s t : State} {x y : RegNum} {n : Nat} (hn : n < 16) (hfb : t.fb = (s.drawn x y n).1)
    (hcovers : ∀ py px, t.spriteCovers x y n py px ↔ s.spriteCovers x y n py px) : (t.drawn x y n).1 = s.fb := by
  obtain ⟨hflip, hstay, -⟩ := drawn_spec s x y hn
  obtain ⟨hflip', hstay', -⟩ := drawn_spec t x y hn
  refine fb_ext fun py px => ?_
  by_cases hc : s.spriteCovers x y n py px
  · rw [hflip' py px ((hcovers py px).mpr hc), hfb, hflip py px hc, Bool.not_not]
  · rw [hstay' py px (mt (hcovers py px).mp hc), hfb, hstay py px hc]

/-- Settles O54: each pixel by whether it is covered; VF is the collision, and the only register written. -/
theorem drwFlipsCoveredPixels : Obligations.DrwFlipsCoveredPixels := by
  intro s x y n hn
  obtain ⟨hflip, hstay, hcollides⟩ := drawn_spec s x y hn
  have hnone : (∀ py px, s.spriteCovers x y n py px → s.fb.pixel py px = false) → (s.drawn x y n).2 = false := fun hoff =>
    Bool.eq_false_iff.mpr fun htrue => by
      obtain ⟨py, px, hc, hon⟩ := hcollides.mp htrue
      exact Bool.false_ne_true ((hoff py px hc).symm.trans hon)
  refine ⟨_, exec_drw s x y n, rfl, fun _ => rfl, wrap12_toNat _, hflip, hstay, fun k hk => ?_,
    fun hon => ?_, fun hoff => ?_⟩
  · exact advance_setReg_reg_of_ne _ hk
  · exact (advance_setReg_reg_same regF _).trans (congrArg flagByte (hcollides.mpr hon))
  · exact (advance_setReg_reg_same regF _).trans (congrArg flagByte (hnone hoff))

/-- Settles O56: DRW writes no memory, no I and no parameter, so the second sprite covers what the first did. -/
theorem drwTwiceRestoresFramebuffer : Obligations.DrwTwiceRestoresFramebuffer := fun s x y n hn =>
  ⟨_, _, exec_drw s x y n, exec_drw _ x y n, fun hx hy =>
    drawn_drawn_fb hn rfl (spriteCovers_congr (fun _ => rfl) rfl rfl hx hy)⟩

end Sys2Proof.Machine
end
